-- ==== Sys2Proof/Word.lean ====
section
/-! DEFINITION. The word types (00_scope.md R9, R10, R15) and nothing else. -/

namespace Sys2Proof

/-- A `u8`: every register but PC, every bus transfer (R9, R15). -/
abbrev Byte := BitVec 8

/-- A `u16`: PC and bus addresses (R10, R15). -/
abbrev Addr := BitVec 16

end Sys2Proof
end

