-- ==== Sys2Proof/Syntax.lean ====
section
/-! DEFINITION. The instruction set as syntax: `Instr` has one constructor for each of the 256 rows of
spec/opcode_table.json, named by mnemonic and addressing mode (by opcode as well where a mnemonic has several rows of one
mode). `Shape` sorts the rows by what they do (40_addressing_modes.md R181). -/

namespace Sys2Proof

/-- The modes that have an effective address (40_addressing_modes.md R186 to R191), with their operand (30_encoding.md R143). -/
inductive EaMode where
  | zp (z : Byte)
  | zpX (z : Byte)
  | zpY (z : Byte)
  | abs (a : Addr)
  | absX (a : Addr)
  | absY (a : Addr)
  | indX (z : Byte)
  | indY (z : Byte)
deriving DecidableEq, Repr

/-- What a Read-class instruction reads: the immediate byte itself (R185) or the byte at an effective address. -/
inductive Operand where
  | imm (m : Byte)
  | mem (e : EaMode)
deriving DecidableEq, Repr

/-- The access classes of R181 that use an effective address. -/
inductive AccessClass where
  | read
  | write
  | rmw
deriving DecidableEq, Repr

/-- The Read class (R181); `nop` are the immediate and memory forms of 47_unofficial.md R380. -/
inductive ReadOp where
  | lda | ldx | ldy | lax | adc | sbc | and | ora | eor | bit | cmp | cpx | cpy | nop
deriving DecidableEq, Repr

/-- The Write class (R181). -/
inductive WriteOp where
  | sta | stx | sty | sax
deriving DecidableEq, Repr

/-- The RMW class (R181). -/
inductive RmwOp where
  | asl | lsr | rol | ror | inc | dec | slo | rla | sre | rra | dcp | isb
deriving DecidableEq, Repr

/-- The accumulator forms (R184). -/
inductive AccOp where
  | asl | lsr | rol | ror
deriving DecidableEq, Repr

/-- The implied forms whose whole effect is in registers (R183). -/
inductive ImpliedOp where
  | tax | tay | txa | tya | tsx | txs | inx | iny | dex | dey | clc | sec | cli | sei | cld | sed | clv | nop
deriving DecidableEq, Repr

/-- The eight branches (45_control_transfer.md R320). -/
inductive BranchOp where
  | bpl | bmi | bvc | bvs | bcc | bcs | bne | beq
deriving DecidableEq, Repr

/-- What a row of the opcode table does: its operation and its operand, without its encoding. -/
inductive Shape where
  | read (op : ReadOp) (o : Operand)
  | write (op : WriteOp) (e : EaMode)
  | rmw (op : RmwOp) (e : EaMode)
  | acc (op : AccOp)
  | implied (op : ImpliedOp)
  | branch (op : BranchOp) (d : Byte)
  | jmpAbs (a : Addr)
  | jmpInd (a : Addr)
  | jsr (a : Addr)
  | rts
  | pha | php | pla | plp
  | brk (sig : Byte)
  | rti
  | refused (op : Byte)
deriving DecidableEq, Repr

/-- The 256 rows of the opcode map (30_encoding.md R144): first the rows with operand bytes, then the one-byte rows, each in
opcode order (Lean's compiler wants constructors with arguments among the first 244). The comment of a line is its opcode, its
mnemonic and mode, and the rule of its meaning. -/
inductive Instr where
  | brk (sig : Byte)  -- 0x00 BRK, R360
  | oraIndX (z : Byte)  -- 0x01 ORA (zp,X), R265
  | sloIndX (z : Byte)  -- 0x03 SLO (zp,X) (unofficial), R383
  | nop04Zp (z : Byte)  -- 0x04 NOP zp (unofficial), R380
  | oraZp (z : Byte)  -- 0x05 ORA zp, R265
  | aslZp (z : Byte)  -- 0x06 ASL zp, R300
  | sloZp (z : Byte)  -- 0x07 SLO zp (unofficial), R383
  | oraImm (m : Byte)  -- 0x09 ORA #, R265
  | nop0CAbs (a : Addr)  -- 0x0C NOP abs (unofficial), R380
  | oraAbs (a : Addr)  -- 0x0D ORA abs, R265
  | aslAbs (a : Addr)  -- 0x0E ASL abs, R300
  | sloAbs (a : Addr)  -- 0x0F SLO abs (unofficial), R383
  | bpl (d : Byte)  -- 0x10 BPL rel, R321
  | oraIndY (z : Byte)  -- 0x11 ORA (zp),Y, R265
  | sloIndY (z : Byte)  -- 0x13 SLO (zp),Y (unofficial), R383
  | nop14ZpX (z : Byte)  -- 0x14 NOP zp,X (unofficial), R380
  | oraZpX (z : Byte)  -- 0x15 ORA zp,X, R265
  | aslZpX (z : Byte)  -- 0x16 ASL zp,X, R300
  | sloZpX (z : Byte)  -- 0x17 SLO zp,X (unofficial), R383
  | oraAbsY (a : Addr)  -- 0x19 ORA abs,Y, R265
  | sloAbsY (a : Addr)  -- 0x1B SLO abs,Y (unofficial), R383
  | nop1CAbsX (a : Addr)  -- 0x1C NOP abs,X (unofficial), R380
  | oraAbsX (a : Addr)  -- 0x1D ORA abs,X, R265
  | aslAbsX (a : Addr)  -- 0x1E ASL abs,X, R300
  | sloAbsX (a : Addr)  -- 0x1F SLO abs,X (unofficial), R383
  | jsr (a : Addr)  -- 0x20 JSR abs, R332
  | andIndX (z : Byte)  -- 0x21 AND (zp,X), R264
  | rlaIndX (z : Byte)  -- 0x23 RLA (zp,X) (unofficial), R384
  | bitZp (z : Byte)  -- 0x24 BIT zp, R267
  | andZp (z : Byte)  -- 0x25 AND zp, R264
  | rolZp (z : Byte)  -- 0x26 ROL zp, R302
  | rlaZp (z : Byte)  -- 0x27 RLA zp (unofficial), R384
  | andImm (m : Byte)  -- 0x29 AND #, R264
  | bitAbs (a : Addr)  -- 0x2C BIT abs, R267
  | andAbs (a : Addr)  -- 0x2D AND abs, R264
  | rolAbs (a : Addr)  -- 0x2E ROL abs, R302
  | rlaAbs (a : Addr)  -- 0x2F RLA abs (unofficial), R384
  | bmi (d : Byte)  -- 0x30 BMI rel, R322
  | andIndY (z : Byte)  -- 0x31 AND (zp),Y, R264
  | rlaIndY (z : Byte)  -- 0x33 RLA (zp),Y (unofficial), R384
  | nop34ZpX (z : Byte)  -- 0x34 NOP zp,X (unofficial), R380
  | andZpX (z : Byte)  -- 0x35 AND zp,X, R264
  | rolZpX (z : Byte)  -- 0x36 ROL zp,X, R302
  | rlaZpX (z : Byte)  -- 0x37 RLA zp,X (unofficial), R384
  | andAbsY (a : Addr)  -- 0x39 AND abs,Y, R264
  | rlaAbsY (a : Addr)  -- 0x3B RLA abs,Y (unofficial), R384
  | nop3CAbsX (a : Addr)  -- 0x3C NOP abs,X (unofficial), R380
  | andAbsX (a : Addr)  -- 0x3D AND abs,X, R264
  | rolAbsX (a : Addr)  -- 0x3E ROL abs,X, R302
  | rlaAbsX (a : Addr)  -- 0x3F RLA abs,X (unofficial), R384
  | eorIndX (z : Byte)  -- 0x41 EOR (zp,X), R266
  | sreIndX (z : Byte)  -- 0x43 SRE (zp,X) (unofficial), R385
  | nop44Zp (z : Byte)  -- 0x44 NOP zp (unofficial), R380
  | eorZp (z : Byte)  -- 0x45 EOR zp, R266
  | lsrZp (z : Byte)  -- 0x46 LSR zp, R301
  | sreZp (z : Byte)  -- 0x47 SRE zp (unofficial), R385
  | eorImm (m : Byte)  -- 0x49 EOR #, R266
  | jmpAbs (a : Addr)  -- 0x4C JMP abs, R330
  | eorAbs (a : Addr)  -- 0x4D EOR abs, R266
  | lsrAbs (a : Addr)  -- 0x4E LSR abs, R301
  | sreAbs (a : Addr)  -- 0x4F SRE abs (unofficial), R385
  | bvc (d : Byte)  -- 0x50 BVC rel, R323
  | eorIndY (z : Byte)  -- 0x51 EOR (zp),Y, R266
  | sreIndY (z : Byte)  -- 0x53 SRE (zp),Y (unofficial), R385
  | nop54ZpX (z : Byte)  -- 0x54 NOP zp,X (unofficial), R380
  | eorZpX (z : Byte)  -- 0x55 EOR zp,X, R266
  | lsrZpX (z : Byte)  -- 0x56 LSR zp,X, R301
  | sreZpX (z : Byte)  -- 0x57 SRE zp,X (unofficial), R385
  | eorAbsY (a : Addr)  -- 0x59 EOR abs,Y, R266
  | sreAbsY (a : Addr)  -- 0x5B SRE abs,Y (unofficial), R385
  | nop5CAbsX (a : Addr)  -- 0x5C NOP abs,X (unofficial), R380
  | eorAbsX (a : Addr)  -- 0x5D EOR abs,X, R266
  | lsrAbsX (a : Addr)  -- 0x5E LSR abs,X, R301
  | sreAbsX (a : Addr)  -- 0x5F SRE abs,X (unofficial), R385
  | adcIndX (z : Byte)  -- 0x61 ADC (zp,X), R262
  | rraIndX (z : Byte)  -- 0x63 RRA (zp,X) (unofficial), R386
  | nop64Zp (z : Byte)  -- 0x64 NOP zp (unofficial), R380
  | adcZp (z : Byte)  -- 0x65 ADC zp, R262
  | rorZp (z : Byte)  -- 0x66 ROR zp, R303
  | rraZp (z : Byte)  -- 0x67 RRA zp (unofficial), R386
  | adcImm (m : Byte)  -- 0x69 ADC #, R262
  | jmpInd (a : Addr)  -- 0x6C JMP (ind), R331
  | adcAbs (a : Addr)  -- 0x6D ADC abs, R262
  | rorAbs (a : Addr)  -- 0x6E ROR abs, R303
  | rraAbs (a : Addr)  -- 0x6F RRA abs (unofficial), R386
  | bvs (d : Byte)  -- 0x70 BVS rel, R324
  | adcIndY (z : Byte)  -- 0x71 ADC (zp),Y, R262
  | rraIndY (z : Byte)  -- 0x73 RRA (zp),Y (unofficial), R386
  | nop74ZpX (z : Byte)  -- 0x74 NOP zp,X (unofficial), R380
  | adcZpX (z : Byte)  -- 0x75 ADC zp,X, R262
  | rorZpX (z : Byte)  -- 0x76 ROR zp,X, R303
  | rraZpX (z : Byte)  -- 0x77 RRA zp,X (unofficial), R386
  | adcAbsY (a : Addr)  -- 0x79 ADC abs,Y, R262
  | rraAbsY (a : Addr)  -- 0x7B RRA abs,Y (unofficial), R386
  | nop7CAbsX (a : Addr)  -- 0x7C NOP abs,X (unofficial), R380
  | adcAbsX (a : Addr)  -- 0x7D ADC abs,X, R262
  | rorAbsX (a : Addr)  -- 0x7E ROR abs,X, R303
  | rraAbsX (a : Addr)  -- 0x7F RRA abs,X (unofficial), R386
  | nop80Imm (m : Byte)  -- 0x80 NOP # (unofficial), R380
  | staIndX (z : Byte)  -- 0x81 STA (zp,X), R223
  | nop82Imm (m : Byte)  -- 0x82 NOP # (unofficial), R380
  | saxIndX (z : Byte)  -- 0x83 SAX (zp,X) (unofficial), R382
  | styZp (z : Byte)  -- 0x84 STY zp, R225
  | staZp (z : Byte)  -- 0x85 STA zp, R223
  | stxZp (z : Byte)  -- 0x86 STX zp, R224
  | saxZp (z : Byte)  -- 0x87 SAX zp (unofficial), R382
  | nop89Imm (m : Byte)  -- 0x89 NOP # (unofficial), R380
  | styAbs (a : Addr)  -- 0x8C STY abs, R225
  | staAbs (a : Addr)  -- 0x8D STA abs, R223
  | stxAbs (a : Addr)  -- 0x8E STX abs, R224
  | saxAbs (a : Addr)  -- 0x8F SAX abs (unofficial), R382
  | bcc (d : Byte)  -- 0x90 BCC rel, R325
  | staIndY (z : Byte)  -- 0x91 STA (zp),Y, R223
  | styZpX (z : Byte)  -- 0x94 STY zp,X, R225
  | staZpX (z : Byte)  -- 0x95 STA zp,X, R223
  | stxZpY (z : Byte)  -- 0x96 STX zp,Y, R224
  | saxZpY (z : Byte)  -- 0x97 SAX zp,Y (unofficial), R382
  | staAbsY (a : Addr)  -- 0x99 STA abs,Y, R223
  | staAbsX (a : Addr)  -- 0x9D STA abs,X, R223
  | ldyImm (m : Byte)  -- 0xA0 LDY #, R222
  | ldaIndX (z : Byte)  -- 0xA1 LDA (zp,X), R220
  | ldxImm (m : Byte)  -- 0xA2 LDX #, R221
  | laxIndX (z : Byte)  -- 0xA3 LAX (zp,X) (unofficial), R381
  | ldyZp (z : Byte)  -- 0xA4 LDY zp, R222
  | ldaZp (z : Byte)  -- 0xA5 LDA zp, R220
  | ldxZp (z : Byte)  -- 0xA6 LDX zp, R221
  | laxZp (z : Byte)  -- 0xA7 LAX zp (unofficial), R381
  | ldaImm (m : Byte)  -- 0xA9 LDA #, R220
  | ldyAbs (a : Addr)  -- 0xAC LDY abs, R222
  | ldaAbs (a : Addr)  -- 0xAD LDA abs, R220
  | ldxAbs (a : Addr)  -- 0xAE LDX abs, R221
  | laxAbs (a : Addr)  -- 0xAF LAX abs (unofficial), R381
  | bcs (d : Byte)  -- 0xB0 BCS rel, R326
  | ldaIndY (z : Byte)  -- 0xB1 LDA (zp),Y, R220
  | laxIndY (z : Byte)  -- 0xB3 LAX (zp),Y (unofficial), R381
  | ldyZpX (z : Byte)  -- 0xB4 LDY zp,X, R222
  | ldaZpX (z : Byte)  -- 0xB5 LDA zp,X, R220
  | ldxZpY (z : Byte)  -- 0xB6 LDX zp,Y, R221
  | laxZpY (z : Byte)  -- 0xB7 LAX zp,Y (unofficial), R381
  | ldaAbsY (a : Addr)  -- 0xB9 LDA abs,Y, R220
  | ldyAbsX (a : Addr)  -- 0xBC LDY abs,X, R222
  | ldaAbsX (a : Addr)  -- 0xBD LDA abs,X, R220
  | ldxAbsY (a : Addr)  -- 0xBE LDX abs,Y, R221
  | laxAbsY (a : Addr)  -- 0xBF LAX abs,Y (unofficial), R381
  | cpyImm (m : Byte)  -- 0xC0 CPY #, R270
  | cmpIndX (z : Byte)  -- 0xC1 CMP (zp,X), R268
  | nopC2Imm (m : Byte)  -- 0xC2 NOP # (unofficial), R380
  | dcpIndX (z : Byte)  -- 0xC3 DCP (zp,X) (unofficial), R388
  | cpyZp (z : Byte)  -- 0xC4 CPY zp, R270
  | cmpZp (z : Byte)  -- 0xC5 CMP zp, R268
  | decZp (z : Byte)  -- 0xC6 DEC zp, R272
  | dcpZp (z : Byte)  -- 0xC7 DCP zp (unofficial), R388
  | cmpImm (m : Byte)  -- 0xC9 CMP #, R268
  | cpyAbs (a : Addr)  -- 0xCC CPY abs, R270
  | cmpAbs (a : Addr)  -- 0xCD CMP abs, R268
  | decAbs (a : Addr)  -- 0xCE DEC abs, R272
  | dcpAbs (a : Addr)  -- 0xCF DCP abs (unofficial), R388
  | bne (d : Byte)  -- 0xD0 BNE rel, R327
  | cmpIndY (z : Byte)  -- 0xD1 CMP (zp),Y, R268
  | dcpIndY (z : Byte)  -- 0xD3 DCP (zp),Y (unofficial), R388
  | nopD4ZpX (z : Byte)  -- 0xD4 NOP zp,X (unofficial), R380
  | cmpZpX (z : Byte)  -- 0xD5 CMP zp,X, R268
  | decZpX (z : Byte)  -- 0xD6 DEC zp,X, R272
  | dcpZpX (z : Byte)  -- 0xD7 DCP zp,X (unofficial), R388
  | cmpAbsY (a : Addr)  -- 0xD9 CMP abs,Y, R268
  | dcpAbsY (a : Addr)  -- 0xDB DCP abs,Y (unofficial), R388
  | nopDCAbsX (a : Addr)  -- 0xDC NOP abs,X (unofficial), R380
  | cmpAbsX (a : Addr)  -- 0xDD CMP abs,X, R268
  | decAbsX (a : Addr)  -- 0xDE DEC abs,X, R272
  | dcpAbsX (a : Addr)  -- 0xDF DCP abs,X (unofficial), R388
  | cpxImm (m : Byte)  -- 0xE0 CPX #, R269
  | sbcIndX (z : Byte)  -- 0xE1 SBC (zp,X), R263
  | nopE2Imm (m : Byte)  -- 0xE2 NOP # (unofficial), R380
  | isbIndX (z : Byte)  -- 0xE3 ISB (zp,X) (unofficial), R389
  | cpxZp (z : Byte)  -- 0xE4 CPX zp, R269
  | sbcZp (z : Byte)  -- 0xE5 SBC zp, R263
  | incZp (z : Byte)  -- 0xE6 INC zp, R271
  | isbZp (z : Byte)  -- 0xE7 ISB zp (unofficial), R389
  | sbcImm (m : Byte)  -- 0xE9 SBC #, R263
  | sbcEBImm (m : Byte)  -- 0xEB SBC # (unofficial), R387
  | cpxAbs (a : Addr)  -- 0xEC CPX abs, R269
  | sbcAbs (a : Addr)  -- 0xED SBC abs, R263
  | incAbs (a : Addr)  -- 0xEE INC abs, R271
  | isbAbs (a : Addr)  -- 0xEF ISB abs (unofficial), R389
  | beq (d : Byte)  -- 0xF0 BEQ rel, R328
  | sbcIndY (z : Byte)  -- 0xF1 SBC (zp),Y, R263
  | isbIndY (z : Byte)  -- 0xF3 ISB (zp),Y (unofficial), R389
  | nopF4ZpX (z : Byte)  -- 0xF4 NOP zp,X (unofficial), R380
  | sbcZpX (z : Byte)  -- 0xF5 SBC zp,X, R263
  | incZpX (z : Byte)  -- 0xF6 INC zp,X, R271
  | isbZpX (z : Byte)  -- 0xF7 ISB zp,X (unofficial), R389
  | sbcAbsY (a : Addr)  -- 0xF9 SBC abs,Y, R263
  | isbAbsY (a : Addr)  -- 0xFB ISB abs,Y (unofficial), R389
  | nopFCAbsX (a : Addr)  -- 0xFC NOP abs,X (unofficial), R380
  | sbcAbsX (a : Addr)  -- 0xFD SBC abs,X, R263
  | incAbsX (a : Addr)  -- 0xFE INC abs,X, R271
  | isbAbsX (a : Addr)  -- 0xFF ISB abs,X (unofficial), R389
  | jam02  -- 0x02 JAM (refused), R420
  | php  -- 0x08 PHP, R251
  | aslAcc  -- 0x0A ASL A, R300
  | anc0B  -- 0x0B ANC (refused), R420
  | jam12  -- 0x12 JAM (refused), R420
  | clc  -- 0x18 CLC, R350
  | nop1A  -- 0x1A NOP (unofficial), R380
  | jam22  -- 0x22 JAM (refused), R420
  | plp  -- 0x28 PLP, R253
  | rolAcc  -- 0x2A ROL A, R302
  | anc2B  -- 0x2B ANC (refused), R420
  | jam32  -- 0x32 JAM (refused), R420
  | sec  -- 0x38 SEC, R351
  | nop3A  -- 0x3A NOP (unofficial), R380
  | rti  -- 0x40 RTI, R361
  | jam42  -- 0x42 JAM (refused), R420
  | pha  -- 0x48 PHA, R250
  | lsrAcc  -- 0x4A LSR A, R301
  | alr  -- 0x4B ALR (refused), R420
  | jam52  -- 0x52 JAM (refused), R420
  | cli  -- 0x58 CLI, R352
  | nop5A  -- 0x5A NOP (unofficial), R380
  | rts  -- 0x60 RTS, R333
  | jam62  -- 0x62 JAM (refused), R420
  | pla  -- 0x68 PLA, R252
  | rorAcc  -- 0x6A ROR A, R303
  | arr  -- 0x6B ARR (refused), R420
  | jam72  -- 0x72 JAM (refused), R420
  | sei  -- 0x78 SEI, R353
  | nop7A  -- 0x7A NOP (unofficial), R380
  | dey  -- 0x88 DEY, R276
  | txa  -- 0x8A TXA, R228
  | xaa  -- 0x8B XAA (refused), R420
  | jam92  -- 0x92 JAM (refused), R420
  | sha93  -- 0x93 SHA (refused), R420
  | tya  -- 0x98 TYA, R229
  | txs  -- 0x9A TXS, R231
  | tas  -- 0x9B TAS (refused), R420
  | shy  -- 0x9C SHY (refused), R420
  | shx  -- 0x9E SHX (refused), R420
  | sha9F  -- 0x9F SHA (refused), R420
  | tay  -- 0xA8 TAY, R227
  | tax  -- 0xAA TAX, R226
  | lxa  -- 0xAB LXA (refused), R420
  | jamB2  -- 0xB2 JAM (refused), R420
  | clv  -- 0xB8 CLV, R356
  | tsx  -- 0xBA TSX, R230
  | las  -- 0xBB LAS (refused), R420
  | iny  -- 0xC8 INY, R274
  | dex  -- 0xCA DEX, R275
  | sbx  -- 0xCB SBX (refused), R420
  | jamD2  -- 0xD2 JAM (refused), R420
  | cld  -- 0xD8 CLD, R354
  | nopDA  -- 0xDA NOP (unofficial), R380
  | inx  -- 0xE8 INX, R273
  | nop  -- 0xEA NOP, R357
  | jamF2  -- 0xF2 JAM (refused), R420
  | sed  -- 0xF8 SED, R355
  | nopFA  -- 0xFA NOP (unofficial), R380
deriving DecidableEq, Repr

end Sys2Proof
end

