-- ==== Sys2Proof/Decode.lean ====
section
/-! DEFINITION. The encoding (30_encoding.md): the opcode map as a 16 by 16 table, the decoder, which is total on any bytes
and rejects by name, and the encoder. The bit-field and byte-order helpers of 00_scope.md R16 stand here too. -/

namespace Sys2Proof

/-! ### Bytes and addresses (00_scope.md R16) -/

/-- `lo(a)` of R16: `a mod 256`. -/
def lo (a : Addr) : Byte := BitVec.ofNat 8 a.toNat

/-- `hi(a)` of R16: `a div 256`. -/
def hi (a : Addr) : Byte := BitVec.ofNat 8 (a.toNat / 256)

/-- `concat(h, l)` of R16: `h*256 + l`. Little-endian pairs put the second byte high (20_memory.md R89). -/
def concat (h l : Byte) : Addr := BitVec.ofNat 16 (h.toNat * 256 + l.toNat)

/-- A zero-page address (R143): page 0, offset `z`. -/
def zeroPage (z : Byte) : Addr := concat 0 z

/-- `sext_8` of R16, modulo 65536. -/
def sext8 (d : Byte) : Addr := d.signExtend 16

/-! ### The opcode map (30_encoding.md R144) -/

/-- Row 0x of R144: the entry of each low nibble, applied to the bytes after the opcode. -/
def opcodeRow0 : List (Byte → Byte → Instr) :=
  [ fun l _ => .brk l, fun l _ => .oraIndX l,
    fun _ _ => .jam02, fun l _ => .sloIndX l,
    fun l _ => .nop04Zp l, fun l _ => .oraZp l,
    fun l _ => .aslZp l, fun l _ => .sloZp l,
    fun _ _ => .php, fun l _ => .oraImm l,
    fun _ _ => .aslAcc, fun _ _ => .anc0B,
    fun l h => .nop0CAbs (concat h l), fun l h => .oraAbs (concat h l),
    fun l h => .aslAbs (concat h l), fun l h => .sloAbs (concat h l) ]

/-- Row 1x of R144: the entry of each low nibble, applied to the bytes after the opcode. -/
def opcodeRow1 : List (Byte → Byte → Instr) :=
  [ fun l _ => .bpl l, fun l _ => .oraIndY l,
    fun _ _ => .jam12, fun l _ => .sloIndY l,
    fun l _ => .nop14ZpX l, fun l _ => .oraZpX l,
    fun l _ => .aslZpX l, fun l _ => .sloZpX l,
    fun _ _ => .clc, fun l h => .oraAbsY (concat h l),
    fun _ _ => .nop1A, fun l h => .sloAbsY (concat h l),
    fun l h => .nop1CAbsX (concat h l), fun l h => .oraAbsX (concat h l),
    fun l h => .aslAbsX (concat h l), fun l h => .sloAbsX (concat h l) ]

/-- Row 2x of R144: the entry of each low nibble, applied to the bytes after the opcode. -/
def opcodeRow2 : List (Byte → Byte → Instr) :=
  [ fun l h => .jsr (concat h l), fun l _ => .andIndX l,
    fun _ _ => .jam22, fun l _ => .rlaIndX l,
    fun l _ => .bitZp l, fun l _ => .andZp l,
    fun l _ => .rolZp l, fun l _ => .rlaZp l,
    fun _ _ => .plp, fun l _ => .andImm l,
    fun _ _ => .rolAcc, fun _ _ => .anc2B,
    fun l h => .bitAbs (concat h l), fun l h => .andAbs (concat h l),
    fun l h => .rolAbs (concat h l), fun l h => .rlaAbs (concat h l) ]

/-- Row 3x of R144: the entry of each low nibble, applied to the bytes after the opcode. -/
def opcodeRow3 : List (Byte → Byte → Instr) :=
  [ fun l _ => .bmi l, fun l _ => .andIndY l,
    fun _ _ => .jam32, fun l _ => .rlaIndY l,
    fun l _ => .nop34ZpX l, fun l _ => .andZpX l,
    fun l _ => .rolZpX l, fun l _ => .rlaZpX l,
    fun _ _ => .sec, fun l h => .andAbsY (concat h l),
    fun _ _ => .nop3A, fun l h => .rlaAbsY (concat h l),
    fun l h => .nop3CAbsX (concat h l), fun l h => .andAbsX (concat h l),
    fun l h => .rolAbsX (concat h l), fun l h => .rlaAbsX (concat h l) ]

/-- Row 4x of R144: the entry of each low nibble, applied to the bytes after the opcode. -/
def opcodeRow4 : List (Byte → Byte → Instr) :=
  [ fun _ _ => .rti, fun l _ => .eorIndX l,
    fun _ _ => .jam42, fun l _ => .sreIndX l,
    fun l _ => .nop44Zp l, fun l _ => .eorZp l,
    fun l _ => .lsrZp l, fun l _ => .sreZp l,
    fun _ _ => .pha, fun l _ => .eorImm l,
    fun _ _ => .lsrAcc, fun _ _ => .alr,
    fun l h => .jmpAbs (concat h l), fun l h => .eorAbs (concat h l),
    fun l h => .lsrAbs (concat h l), fun l h => .sreAbs (concat h l) ]

/-- Row 5x of R144: the entry of each low nibble, applied to the bytes after the opcode. -/
def opcodeRow5 : List (Byte → Byte → Instr) :=
  [ fun l _ => .bvc l, fun l _ => .eorIndY l,
    fun _ _ => .jam52, fun l _ => .sreIndY l,
    fun l _ => .nop54ZpX l, fun l _ => .eorZpX l,
    fun l _ => .lsrZpX l, fun l _ => .sreZpX l,
    fun _ _ => .cli, fun l h => .eorAbsY (concat h l),
    fun _ _ => .nop5A, fun l h => .sreAbsY (concat h l),
    fun l h => .nop5CAbsX (concat h l), fun l h => .eorAbsX (concat h l),
    fun l h => .lsrAbsX (concat h l), fun l h => .sreAbsX (concat h l) ]

/-- Row 6x of R144: the entry of each low nibble, applied to the bytes after the opcode. -/
def opcodeRow6 : List (Byte → Byte → Instr) :=
  [ fun _ _ => .rts, fun l _ => .adcIndX l,
    fun _ _ => .jam62, fun l _ => .rraIndX l,
    fun l _ => .nop64Zp l, fun l _ => .adcZp l,
    fun l _ => .rorZp l, fun l _ => .rraZp l,
    fun _ _ => .pla, fun l _ => .adcImm l,
    fun _ _ => .rorAcc, fun _ _ => .arr,
    fun l h => .jmpInd (concat h l), fun l h => .adcAbs (concat h l),
    fun l h => .rorAbs (concat h l), fun l h => .rraAbs (concat h l) ]

/-- Row 7x of R144: the entry of each low nibble, applied to the bytes after the opcode. -/
def opcodeRow7 : List (Byte → Byte → Instr) :=
  [ fun l _ => .bvs l, fun l _ => .adcIndY l,
    fun _ _ => .jam72, fun l _ => .rraIndY l,
    fun l _ => .nop74ZpX l, fun l _ => .adcZpX l,
    fun l _ => .rorZpX l, fun l _ => .rraZpX l,
    fun _ _ => .sei, fun l h => .adcAbsY (concat h l),
    fun _ _ => .nop7A, fun l h => .rraAbsY (concat h l),
    fun l h => .nop7CAbsX (concat h l), fun l h => .adcAbsX (concat h l),
    fun l h => .rorAbsX (concat h l), fun l h => .rraAbsX (concat h l) ]

/-- Row 8x of R144: the entry of each low nibble, applied to the bytes after the opcode. -/
def opcodeRow8 : List (Byte → Byte → Instr) :=
  [ fun l _ => .nop80Imm l, fun l _ => .staIndX l,
    fun l _ => .nop82Imm l, fun l _ => .saxIndX l,
    fun l _ => .styZp l, fun l _ => .staZp l,
    fun l _ => .stxZp l, fun l _ => .saxZp l,
    fun _ _ => .dey, fun l _ => .nop89Imm l,
    fun _ _ => .txa, fun _ _ => .xaa,
    fun l h => .styAbs (concat h l), fun l h => .staAbs (concat h l),
    fun l h => .stxAbs (concat h l), fun l h => .saxAbs (concat h l) ]

/-- Row 9x of R144: the entry of each low nibble, applied to the bytes after the opcode. -/
def opcodeRow9 : List (Byte → Byte → Instr) :=
  [ fun l _ => .bcc l, fun l _ => .staIndY l,
    fun _ _ => .jam92, fun _ _ => .sha93,
    fun l _ => .styZpX l, fun l _ => .staZpX l,
    fun l _ => .stxZpY l, fun l _ => .saxZpY l,
    fun _ _ => .tya, fun l h => .staAbsY (concat h l),
    fun _ _ => .txs, fun _ _ => .tas,
    fun _ _ => .shy, fun l h => .staAbsX (concat h l),
    fun _ _ => .shx, fun _ _ => .sha9F ]

/-- Row Ax of R144: the entry of each low nibble, applied to the bytes after the opcode. -/
def opcodeRowA : List (Byte → Byte → Instr) :=
  [ fun l _ => .ldyImm l, fun l _ => .ldaIndX l,
    fun l _ => .ldxImm l, fun l _ => .laxIndX l,
    fun l _ => .ldyZp l, fun l _ => .ldaZp l,
    fun l _ => .ldxZp l, fun l _ => .laxZp l,
    fun _ _ => .tay, fun l _ => .ldaImm l,
    fun _ _ => .tax, fun _ _ => .lxa,
    fun l h => .ldyAbs (concat h l), fun l h => .ldaAbs (concat h l),
    fun l h => .ldxAbs (concat h l), fun l h => .laxAbs (concat h l) ]

/-- Row Bx of R144: the entry of each low nibble, applied to the bytes after the opcode. -/
def opcodeRowB : List (Byte → Byte → Instr) :=
  [ fun l _ => .bcs l, fun l _ => .ldaIndY l,
    fun _ _ => .jamB2, fun l _ => .laxIndY l,
    fun l _ => .ldyZpX l, fun l _ => .ldaZpX l,
    fun l _ => .ldxZpY l, fun l _ => .laxZpY l,
    fun _ _ => .clv, fun l h => .ldaAbsY (concat h l),
    fun _ _ => .tsx, fun _ _ => .las,
    fun l h => .ldyAbsX (concat h l), fun l h => .ldaAbsX (concat h l),
    fun l h => .ldxAbsY (concat h l), fun l h => .laxAbsY (concat h l) ]

/-- Row Cx of R144: the entry of each low nibble, applied to the bytes after the opcode. -/
def opcodeRowC : List (Byte → Byte → Instr) :=
  [ fun l _ => .cpyImm l, fun l _ => .cmpIndX l,
    fun l _ => .nopC2Imm l, fun l _ => .dcpIndX l,
    fun l _ => .cpyZp l, fun l _ => .cmpZp l,
    fun l _ => .decZp l, fun l _ => .dcpZp l,
    fun _ _ => .iny, fun l _ => .cmpImm l,
    fun _ _ => .dex, fun _ _ => .sbx,
    fun l h => .cpyAbs (concat h l), fun l h => .cmpAbs (concat h l),
    fun l h => .decAbs (concat h l), fun l h => .dcpAbs (concat h l) ]

/-- Row Dx of R144: the entry of each low nibble, applied to the bytes after the opcode. -/
def opcodeRowD : List (Byte → Byte → Instr) :=
  [ fun l _ => .bne l, fun l _ => .cmpIndY l,
    fun _ _ => .jamD2, fun l _ => .dcpIndY l,
    fun l _ => .nopD4ZpX l, fun l _ => .cmpZpX l,
    fun l _ => .decZpX l, fun l _ => .dcpZpX l,
    fun _ _ => .cld, fun l h => .cmpAbsY (concat h l),
    fun _ _ => .nopDA, fun l h => .dcpAbsY (concat h l),
    fun l h => .nopDCAbsX (concat h l), fun l h => .cmpAbsX (concat h l),
    fun l h => .decAbsX (concat h l), fun l h => .dcpAbsX (concat h l) ]

/-- Row Ex of R144: the entry of each low nibble, applied to the bytes after the opcode. -/
def opcodeRowE : List (Byte → Byte → Instr) :=
  [ fun l _ => .cpxImm l, fun l _ => .sbcIndX l,
    fun l _ => .nopE2Imm l, fun l _ => .isbIndX l,
    fun l _ => .cpxZp l, fun l _ => .sbcZp l,
    fun l _ => .incZp l, fun l _ => .isbZp l,
    fun _ _ => .inx, fun l _ => .sbcImm l,
    fun _ _ => .nop, fun l _ => .sbcEBImm l,
    fun l h => .cpxAbs (concat h l), fun l h => .sbcAbs (concat h l),
    fun l h => .incAbs (concat h l), fun l h => .isbAbs (concat h l) ]

/-- Row Fx of R144: the entry of each low nibble, applied to the bytes after the opcode. -/
def opcodeRowF : List (Byte → Byte → Instr) :=
  [ fun l _ => .beq l, fun l _ => .sbcIndY l,
    fun _ _ => .jamF2, fun l _ => .isbIndY l,
    fun l _ => .nopF4ZpX l, fun l _ => .sbcZpX l,
    fun l _ => .incZpX l, fun l _ => .isbZpX l,
    fun _ _ => .sed, fun l h => .sbcAbsY (concat h l),
    fun _ _ => .nopFA, fun l h => .isbAbsY (concat h l),
    fun l h => .nopFCAbsX (concat h l), fun l h => .sbcAbsX (concat h l),
    fun l h => .incAbsX (concat h l), fun l h => .isbAbsX (concat h l) ]

/-- The sixteen rows of R144, by high nibble. -/
def opcodeRows : List (List (Byte → Byte → Instr)) :=
  [ opcodeRow0, opcodeRow1, opcodeRow2, opcodeRow3, opcodeRow4, opcodeRow5, opcodeRow6, opcodeRow7,
    opcodeRow8, opcodeRow9, opcodeRowA, opcodeRowB, opcodeRowC, opcodeRowD, opcodeRowE, opcodeRowF ]

/-- The one entry of R144 for an opcode byte (R141), applied to the two bytes after it. -/
def instrOf (op b1 b2 : Byte) : Instr :=
  ((opcodeRows.getD (op.toNat / 16) []).getD (op.toNat % 16) (fun _ _ => .nop)) b1 b2

/-- The opcode byte of each row of R144. -/
def Instr.opcode : Instr → Byte
  | .brk _ => 0x00
  | .oraIndX _ => 0x01
  | .jam02 => 0x02
  | .sloIndX _ => 0x03
  | .nop04Zp _ => 0x04
  | .oraZp _ => 0x05
  | .aslZp _ => 0x06
  | .sloZp _ => 0x07
  | .php => 0x08
  | .oraImm _ => 0x09
  | .aslAcc => 0x0A
  | .anc0B => 0x0B
  | .nop0CAbs _ => 0x0C
  | .oraAbs _ => 0x0D
  | .aslAbs _ => 0x0E
  | .sloAbs _ => 0x0F
  | .bpl _ => 0x10
  | .oraIndY _ => 0x11
  | .jam12 => 0x12
  | .sloIndY _ => 0x13
  | .nop14ZpX _ => 0x14
  | .oraZpX _ => 0x15
  | .aslZpX _ => 0x16
  | .sloZpX _ => 0x17
  | .clc => 0x18
  | .oraAbsY _ => 0x19
  | .nop1A => 0x1A
  | .sloAbsY _ => 0x1B
  | .nop1CAbsX _ => 0x1C
  | .oraAbsX _ => 0x1D
  | .aslAbsX _ => 0x1E
  | .sloAbsX _ => 0x1F
  | .jsr _ => 0x20
  | .andIndX _ => 0x21
  | .jam22 => 0x22
  | .rlaIndX _ => 0x23
  | .bitZp _ => 0x24
  | .andZp _ => 0x25
  | .rolZp _ => 0x26
  | .rlaZp _ => 0x27
  | .plp => 0x28
  | .andImm _ => 0x29
  | .rolAcc => 0x2A
  | .anc2B => 0x2B
  | .bitAbs _ => 0x2C
  | .andAbs _ => 0x2D
  | .rolAbs _ => 0x2E
  | .rlaAbs _ => 0x2F
  | .bmi _ => 0x30
  | .andIndY _ => 0x31
  | .jam32 => 0x32
  | .rlaIndY _ => 0x33
  | .nop34ZpX _ => 0x34
  | .andZpX _ => 0x35
  | .rolZpX _ => 0x36
  | .rlaZpX _ => 0x37
  | .sec => 0x38
  | .andAbsY _ => 0x39
  | .nop3A => 0x3A
  | .rlaAbsY _ => 0x3B
  | .nop3CAbsX _ => 0x3C
  | .andAbsX _ => 0x3D
  | .rolAbsX _ => 0x3E
  | .rlaAbsX _ => 0x3F
  | .rti => 0x40
  | .eorIndX _ => 0x41
  | .jam42 => 0x42
  | .sreIndX _ => 0x43
  | .nop44Zp _ => 0x44
  | .eorZp _ => 0x45
  | .lsrZp _ => 0x46
  | .sreZp _ => 0x47
  | .pha => 0x48
  | .eorImm _ => 0x49
  | .lsrAcc => 0x4A
  | .alr => 0x4B
  | .jmpAbs _ => 0x4C
  | .eorAbs _ => 0x4D
  | .lsrAbs _ => 0x4E
  | .sreAbs _ => 0x4F
  | .bvc _ => 0x50
  | .eorIndY _ => 0x51
  | .jam52 => 0x52
  | .sreIndY _ => 0x53
  | .nop54ZpX _ => 0x54
  | .eorZpX _ => 0x55
  | .lsrZpX _ => 0x56
  | .sreZpX _ => 0x57
  | .cli => 0x58
  | .eorAbsY _ => 0x59
  | .nop5A => 0x5A
  | .sreAbsY _ => 0x5B
  | .nop5CAbsX _ => 0x5C
  | .eorAbsX _ => 0x5D
  | .lsrAbsX _ => 0x5E
  | .sreAbsX _ => 0x5F
  | .rts => 0x60
  | .adcIndX _ => 0x61
  | .jam62 => 0x62
  | .rraIndX _ => 0x63
  | .nop64Zp _ => 0x64
  | .adcZp _ => 0x65
  | .rorZp _ => 0x66
  | .rraZp _ => 0x67
  | .pla => 0x68
  | .adcImm _ => 0x69
  | .rorAcc => 0x6A
  | .arr => 0x6B
  | .jmpInd _ => 0x6C
  | .adcAbs _ => 0x6D
  | .rorAbs _ => 0x6E
  | .rraAbs _ => 0x6F
  | .bvs _ => 0x70
  | .adcIndY _ => 0x71
  | .jam72 => 0x72
  | .rraIndY _ => 0x73
  | .nop74ZpX _ => 0x74
  | .adcZpX _ => 0x75
  | .rorZpX _ => 0x76
  | .rraZpX _ => 0x77
  | .sei => 0x78
  | .adcAbsY _ => 0x79
  | .nop7A => 0x7A
  | .rraAbsY _ => 0x7B
  | .nop7CAbsX _ => 0x7C
  | .adcAbsX _ => 0x7D
  | .rorAbsX _ => 0x7E
  | .rraAbsX _ => 0x7F
  | .nop80Imm _ => 0x80
  | .staIndX _ => 0x81
  | .nop82Imm _ => 0x82
  | .saxIndX _ => 0x83
  | .styZp _ => 0x84
  | .staZp _ => 0x85
  | .stxZp _ => 0x86
  | .saxZp _ => 0x87
  | .dey => 0x88
  | .nop89Imm _ => 0x89
  | .txa => 0x8A
  | .xaa => 0x8B
  | .styAbs _ => 0x8C
  | .staAbs _ => 0x8D
  | .stxAbs _ => 0x8E
  | .saxAbs _ => 0x8F
  | .bcc _ => 0x90
  | .staIndY _ => 0x91
  | .jam92 => 0x92
  | .sha93 => 0x93
  | .styZpX _ => 0x94
  | .staZpX _ => 0x95
  | .stxZpY _ => 0x96
  | .saxZpY _ => 0x97
  | .tya => 0x98
  | .staAbsY _ => 0x99
  | .txs => 0x9A
  | .tas => 0x9B
  | .shy => 0x9C
  | .staAbsX _ => 0x9D
  | .shx => 0x9E
  | .sha9F => 0x9F
  | .ldyImm _ => 0xA0
  | .ldaIndX _ => 0xA1
  | .ldxImm _ => 0xA2
  | .laxIndX _ => 0xA3
  | .ldyZp _ => 0xA4
  | .ldaZp _ => 0xA5
  | .ldxZp _ => 0xA6
  | .laxZp _ => 0xA7
  | .tay => 0xA8
  | .ldaImm _ => 0xA9
  | .tax => 0xAA
  | .lxa => 0xAB
  | .ldyAbs _ => 0xAC
  | .ldaAbs _ => 0xAD
  | .ldxAbs _ => 0xAE
  | .laxAbs _ => 0xAF
  | .bcs _ => 0xB0
  | .ldaIndY _ => 0xB1
  | .jamB2 => 0xB2
  | .laxIndY _ => 0xB3
  | .ldyZpX _ => 0xB4
  | .ldaZpX _ => 0xB5
  | .ldxZpY _ => 0xB6
  | .laxZpY _ => 0xB7
  | .clv => 0xB8
  | .ldaAbsY _ => 0xB9
  | .tsx => 0xBA
  | .las => 0xBB
  | .ldyAbsX _ => 0xBC
  | .ldaAbsX _ => 0xBD
  | .ldxAbsY _ => 0xBE
  | .laxAbsY _ => 0xBF
  | .cpyImm _ => 0xC0
  | .cmpIndX _ => 0xC1
  | .nopC2Imm _ => 0xC2
  | .dcpIndX _ => 0xC3
  | .cpyZp _ => 0xC4
  | .cmpZp _ => 0xC5
  | .decZp _ => 0xC6
  | .dcpZp _ => 0xC7
  | .iny => 0xC8
  | .cmpImm _ => 0xC9
  | .dex => 0xCA
  | .sbx => 0xCB
  | .cpyAbs _ => 0xCC
  | .cmpAbs _ => 0xCD
  | .decAbs _ => 0xCE
  | .dcpAbs _ => 0xCF
  | .bne _ => 0xD0
  | .cmpIndY _ => 0xD1
  | .jamD2 => 0xD2
  | .dcpIndY _ => 0xD3
  | .nopD4ZpX _ => 0xD4
  | .cmpZpX _ => 0xD5
  | .decZpX _ => 0xD6
  | .dcpZpX _ => 0xD7
  | .cld => 0xD8
  | .cmpAbsY _ => 0xD9
  | .nopDA => 0xDA
  | .dcpAbsY _ => 0xDB
  | .nopDCAbsX _ => 0xDC
  | .cmpAbsX _ => 0xDD
  | .decAbsX _ => 0xDE
  | .dcpAbsX _ => 0xDF
  | .cpxImm _ => 0xE0
  | .sbcIndX _ => 0xE1
  | .nopE2Imm _ => 0xE2
  | .isbIndX _ => 0xE3
  | .cpxZp _ => 0xE4
  | .sbcZp _ => 0xE5
  | .incZp _ => 0xE6
  | .isbZp _ => 0xE7
  | .inx => 0xE8
  | .sbcImm _ => 0xE9
  | .nop => 0xEA
  | .sbcEBImm _ => 0xEB
  | .cpxAbs _ => 0xEC
  | .sbcAbs _ => 0xED
  | .incAbs _ => 0xEE
  | .isbAbs _ => 0xEF
  | .beq _ => 0xF0
  | .sbcIndY _ => 0xF1
  | .jamF2 => 0xF2
  | .isbIndY _ => 0xF3
  | .nopF4ZpX _ => 0xF4
  | .sbcZpX _ => 0xF5
  | .incZpX _ => 0xF6
  | .isbZpX _ => 0xF7
  | .sed => 0xF8
  | .sbcAbsY _ => 0xF9
  | .nopFA => 0xFA
  | .isbAbsY _ => 0xFB
  | .nopFCAbsX _ => 0xFC
  | .sbcAbsX _ => 0xFD
  | .incAbsX _ => 0xFE
  | .isbAbsX _ => 0xFF

/-- What each row does: its class, operation and mode (R144, 40_addressing_modes.md R181). -/
def Instr.shape : Instr → Shape
  | .brk sig => .brk sig
  | .oraIndX z => .read .ora (.mem (.indX z))
  | .jam02 => .refused 0x02
  | .sloIndX z => .rmw .slo (.indX z)
  | .nop04Zp z => .read .nop (.mem (.zp z))
  | .oraZp z => .read .ora (.mem (.zp z))
  | .aslZp z => .rmw .asl (.zp z)
  | .sloZp z => .rmw .slo (.zp z)
  | .php => .php
  | .oraImm m => .read .ora (.imm m)
  | .aslAcc => .acc .asl
  | .anc0B => .refused 0x0B
  | .nop0CAbs a => .read .nop (.mem (.abs a))
  | .oraAbs a => .read .ora (.mem (.abs a))
  | .aslAbs a => .rmw .asl (.abs a)
  | .sloAbs a => .rmw .slo (.abs a)
  | .bpl d => .branch .bpl d
  | .oraIndY z => .read .ora (.mem (.indY z))
  | .jam12 => .refused 0x12
  | .sloIndY z => .rmw .slo (.indY z)
  | .nop14ZpX z => .read .nop (.mem (.zpX z))
  | .oraZpX z => .read .ora (.mem (.zpX z))
  | .aslZpX z => .rmw .asl (.zpX z)
  | .sloZpX z => .rmw .slo (.zpX z)
  | .clc => .implied .clc
  | .oraAbsY a => .read .ora (.mem (.absY a))
  | .nop1A => .implied .nop
  | .sloAbsY a => .rmw .slo (.absY a)
  | .nop1CAbsX a => .read .nop (.mem (.absX a))
  | .oraAbsX a => .read .ora (.mem (.absX a))
  | .aslAbsX a => .rmw .asl (.absX a)
  | .sloAbsX a => .rmw .slo (.absX a)
  | .jsr a => .jsr a
  | .andIndX z => .read .and (.mem (.indX z))
  | .jam22 => .refused 0x22
  | .rlaIndX z => .rmw .rla (.indX z)
  | .bitZp z => .read .bit (.mem (.zp z))
  | .andZp z => .read .and (.mem (.zp z))
  | .rolZp z => .rmw .rol (.zp z)
  | .rlaZp z => .rmw .rla (.zp z)
  | .plp => .plp
  | .andImm m => .read .and (.imm m)
  | .rolAcc => .acc .rol
  | .anc2B => .refused 0x2B
  | .bitAbs a => .read .bit (.mem (.abs a))
  | .andAbs a => .read .and (.mem (.abs a))
  | .rolAbs a => .rmw .rol (.abs a)
  | .rlaAbs a => .rmw .rla (.abs a)
  | .bmi d => .branch .bmi d
  | .andIndY z => .read .and (.mem (.indY z))
  | .jam32 => .refused 0x32
  | .rlaIndY z => .rmw .rla (.indY z)
  | .nop34ZpX z => .read .nop (.mem (.zpX z))
  | .andZpX z => .read .and (.mem (.zpX z))
  | .rolZpX z => .rmw .rol (.zpX z)
  | .rlaZpX z => .rmw .rla (.zpX z)
  | .sec => .implied .sec
  | .andAbsY a => .read .and (.mem (.absY a))
  | .nop3A => .implied .nop
  | .rlaAbsY a => .rmw .rla (.absY a)
  | .nop3CAbsX a => .read .nop (.mem (.absX a))
  | .andAbsX a => .read .and (.mem (.absX a))
  | .rolAbsX a => .rmw .rol (.absX a)
  | .rlaAbsX a => .rmw .rla (.absX a)
  | .rti => .rti
  | .eorIndX z => .read .eor (.mem (.indX z))
  | .jam42 => .refused 0x42
  | .sreIndX z => .rmw .sre (.indX z)
  | .nop44Zp z => .read .nop (.mem (.zp z))
  | .eorZp z => .read .eor (.mem (.zp z))
  | .lsrZp z => .rmw .lsr (.zp z)
  | .sreZp z => .rmw .sre (.zp z)
  | .pha => .pha
  | .eorImm m => .read .eor (.imm m)
  | .lsrAcc => .acc .lsr
  | .alr => .refused 0x4B
  | .jmpAbs a => .jmpAbs a
  | .eorAbs a => .read .eor (.mem (.abs a))
  | .lsrAbs a => .rmw .lsr (.abs a)
  | .sreAbs a => .rmw .sre (.abs a)
  | .bvc d => .branch .bvc d
  | .eorIndY z => .read .eor (.mem (.indY z))
  | .jam52 => .refused 0x52
  | .sreIndY z => .rmw .sre (.indY z)
  | .nop54ZpX z => .read .nop (.mem (.zpX z))
  | .eorZpX z => .read .eor (.mem (.zpX z))
  | .lsrZpX z => .rmw .lsr (.zpX z)
  | .sreZpX z => .rmw .sre (.zpX z)
  | .cli => .implied .cli
  | .eorAbsY a => .read .eor (.mem (.absY a))
  | .nop5A => .implied .nop
  | .sreAbsY a => .rmw .sre (.absY a)
  | .nop5CAbsX a => .read .nop (.mem (.absX a))
  | .eorAbsX a => .read .eor (.mem (.absX a))
  | .lsrAbsX a => .rmw .lsr (.absX a)
  | .sreAbsX a => .rmw .sre (.absX a)
  | .rts => .rts
  | .adcIndX z => .read .adc (.mem (.indX z))
  | .jam62 => .refused 0x62
  | .rraIndX z => .rmw .rra (.indX z)
  | .nop64Zp z => .read .nop (.mem (.zp z))
  | .adcZp z => .read .adc (.mem (.zp z))
  | .rorZp z => .rmw .ror (.zp z)
  | .rraZp z => .rmw .rra (.zp z)
  | .pla => .pla
  | .adcImm m => .read .adc (.imm m)
  | .rorAcc => .acc .ror
  | .arr => .refused 0x6B
  | .jmpInd a => .jmpInd a
  | .adcAbs a => .read .adc (.mem (.abs a))
  | .rorAbs a => .rmw .ror (.abs a)
  | .rraAbs a => .rmw .rra (.abs a)
  | .bvs d => .branch .bvs d
  | .adcIndY z => .read .adc (.mem (.indY z))
  | .jam72 => .refused 0x72
  | .rraIndY z => .rmw .rra (.indY z)
  | .nop74ZpX z => .read .nop (.mem (.zpX z))
  | .adcZpX z => .read .adc (.mem (.zpX z))
  | .rorZpX z => .rmw .ror (.zpX z)
  | .rraZpX z => .rmw .rra (.zpX z)
  | .sei => .implied .sei
  | .adcAbsY a => .read .adc (.mem (.absY a))
  | .nop7A => .implied .nop
  | .rraAbsY a => .rmw .rra (.absY a)
  | .nop7CAbsX a => .read .nop (.mem (.absX a))
  | .adcAbsX a => .read .adc (.mem (.absX a))
  | .rorAbsX a => .rmw .ror (.absX a)
  | .rraAbsX a => .rmw .rra (.absX a)
  | .nop80Imm m => .read .nop (.imm m)
  | .staIndX z => .write .sta (.indX z)
  | .nop82Imm m => .read .nop (.imm m)
  | .saxIndX z => .write .sax (.indX z)
  | .styZp z => .write .sty (.zp z)
  | .staZp z => .write .sta (.zp z)
  | .stxZp z => .write .stx (.zp z)
  | .saxZp z => .write .sax (.zp z)
  | .dey => .implied .dey
  | .nop89Imm m => .read .nop (.imm m)
  | .txa => .implied .txa
  | .xaa => .refused 0x8B
  | .styAbs a => .write .sty (.abs a)
  | .staAbs a => .write .sta (.abs a)
  | .stxAbs a => .write .stx (.abs a)
  | .saxAbs a => .write .sax (.abs a)
  | .bcc d => .branch .bcc d
  | .staIndY z => .write .sta (.indY z)
  | .jam92 => .refused 0x92
  | .sha93 => .refused 0x93
  | .styZpX z => .write .sty (.zpX z)
  | .staZpX z => .write .sta (.zpX z)
  | .stxZpY z => .write .stx (.zpY z)
  | .saxZpY z => .write .sax (.zpY z)
  | .tya => .implied .tya
  | .staAbsY a => .write .sta (.absY a)
  | .txs => .implied .txs
  | .tas => .refused 0x9B
  | .shy => .refused 0x9C
  | .staAbsX a => .write .sta (.absX a)
  | .shx => .refused 0x9E
  | .sha9F => .refused 0x9F
  | .ldyImm m => .read .ldy (.imm m)
  | .ldaIndX z => .read .lda (.mem (.indX z))
  | .ldxImm m => .read .ldx (.imm m)
  | .laxIndX z => .read .lax (.mem (.indX z))
  | .ldyZp z => .read .ldy (.mem (.zp z))
  | .ldaZp z => .read .lda (.mem (.zp z))
  | .ldxZp z => .read .ldx (.mem (.zp z))
  | .laxZp z => .read .lax (.mem (.zp z))
  | .tay => .implied .tay
  | .ldaImm m => .read .lda (.imm m)
  | .tax => .implied .tax
  | .lxa => .refused 0xAB
  | .ldyAbs a => .read .ldy (.mem (.abs a))
  | .ldaAbs a => .read .lda (.mem (.abs a))
  | .ldxAbs a => .read .ldx (.mem (.abs a))
  | .laxAbs a => .read .lax (.mem (.abs a))
  | .bcs d => .branch .bcs d
  | .ldaIndY z => .read .lda (.mem (.indY z))
  | .jamB2 => .refused 0xB2
  | .laxIndY z => .read .lax (.mem (.indY z))
  | .ldyZpX z => .read .ldy (.mem (.zpX z))
  | .ldaZpX z => .read .lda (.mem (.zpX z))
  | .ldxZpY z => .read .ldx (.mem (.zpY z))
  | .laxZpY z => .read .lax (.mem (.zpY z))
  | .clv => .implied .clv
  | .ldaAbsY a => .read .lda (.mem (.absY a))
  | .tsx => .implied .tsx
  | .las => .refused 0xBB
  | .ldyAbsX a => .read .ldy (.mem (.absX a))
  | .ldaAbsX a => .read .lda (.mem (.absX a))
  | .ldxAbsY a => .read .ldx (.mem (.absY a))
  | .laxAbsY a => .read .lax (.mem (.absY a))
  | .cpyImm m => .read .cpy (.imm m)
  | .cmpIndX z => .read .cmp (.mem (.indX z))
  | .nopC2Imm m => .read .nop (.imm m)
  | .dcpIndX z => .rmw .dcp (.indX z)
  | .cpyZp z => .read .cpy (.mem (.zp z))
  | .cmpZp z => .read .cmp (.mem (.zp z))
  | .decZp z => .rmw .dec (.zp z)
  | .dcpZp z => .rmw .dcp (.zp z)
  | .iny => .implied .iny
  | .cmpImm m => .read .cmp (.imm m)
  | .dex => .implied .dex
  | .sbx => .refused 0xCB
  | .cpyAbs a => .read .cpy (.mem (.abs a))
  | .cmpAbs a => .read .cmp (.mem (.abs a))
  | .decAbs a => .rmw .dec (.abs a)
  | .dcpAbs a => .rmw .dcp (.abs a)
  | .bne d => .branch .bne d
  | .cmpIndY z => .read .cmp (.mem (.indY z))
  | .jamD2 => .refused 0xD2
  | .dcpIndY z => .rmw .dcp (.indY z)
  | .nopD4ZpX z => .read .nop (.mem (.zpX z))
  | .cmpZpX z => .read .cmp (.mem (.zpX z))
  | .decZpX z => .rmw .dec (.zpX z)
  | .dcpZpX z => .rmw .dcp (.zpX z)
  | .cld => .implied .cld
  | .cmpAbsY a => .read .cmp (.mem (.absY a))
  | .nopDA => .implied .nop
  | .dcpAbsY a => .rmw .dcp (.absY a)
  | .nopDCAbsX a => .read .nop (.mem (.absX a))
  | .cmpAbsX a => .read .cmp (.mem (.absX a))
  | .decAbsX a => .rmw .dec (.absX a)
  | .dcpAbsX a => .rmw .dcp (.absX a)
  | .cpxImm m => .read .cpx (.imm m)
  | .sbcIndX z => .read .sbc (.mem (.indX z))
  | .nopE2Imm m => .read .nop (.imm m)
  | .isbIndX z => .rmw .isb (.indX z)
  | .cpxZp z => .read .cpx (.mem (.zp z))
  | .sbcZp z => .read .sbc (.mem (.zp z))
  | .incZp z => .rmw .inc (.zp z)
  | .isbZp z => .rmw .isb (.zp z)
  | .inx => .implied .inx
  | .sbcImm m => .read .sbc (.imm m)
  | .nop => .implied .nop
  | .sbcEBImm m => .read .sbc (.imm m)
  | .cpxAbs a => .read .cpx (.mem (.abs a))
  | .sbcAbs a => .read .sbc (.mem (.abs a))
  | .incAbs a => .rmw .inc (.abs a)
  | .isbAbs a => .rmw .isb (.abs a)
  | .beq d => .branch .beq d
  | .sbcIndY z => .read .sbc (.mem (.indY z))
  | .jamF2 => .refused 0xF2
  | .isbIndY z => .rmw .isb (.indY z)
  | .nopF4ZpX z => .read .nop (.mem (.zpX z))
  | .sbcZpX z => .read .sbc (.mem (.zpX z))
  | .incZpX z => .rmw .inc (.zpX z)
  | .isbZpX z => .rmw .isb (.zpX z)
  | .sed => .implied .sed
  | .sbcAbsY a => .read .sbc (.mem (.absY a))
  | .nopFA => .implied .nop
  | .isbAbsY a => .rmw .isb (.absY a)
  | .nopFCAbsX a => .read .nop (.mem (.absX a))
  | .sbcAbsX a => .read .sbc (.mem (.absX a))
  | .incAbsX a => .rmw .inc (.absX a)
  | .isbAbsX a => .rmw .isb (.absX a)

/-- The operand bytes of a mode with an effective address, low byte first (R140, R143). -/
def EaMode.bytes : EaMode → List Byte
  | .zp z => [z]
  | .zpX z => [z]
  | .zpY z => [z]
  | .abs a => [lo a, hi a]
  | .absX a => [lo a, hi a]
  | .absY a => [lo a, hi a]
  | .indX z => [z]
  | .indY z => [z]

/-- The operand bytes of a Read-class operand (R140, R143). -/
def Operand.bytes : Operand → List Byte
  | .imm m => [m]
  | .mem e => e.bytes

/-- The bytes after the opcode (R140, R143): formats F1, F2 and F3. BRK has its signature byte (R142). -/
def Shape.bytes : Shape → List Byte
  | .read _ o => o.bytes
  | .write _ e => e.bytes
  | .rmw _ e => e.bytes
  | .acc _ => []
  | .implied _ => []
  | .branch _ d => [d]
  | .jmpAbs a => [lo a, hi a]
  | .jmpInd a => [lo a, hi a]
  | .jsr a => [lo a, hi a]
  | .rts => []
  | .pha => []
  | .php => []
  | .pla => []
  | .plp => []
  | .brk sig => [sig]
  | .rti => []
  | .refused _ => []

/-- The length of an instruction in bytes (R142). -/
def Instr.length (i : Instr) : Nat := 1 + i.shape.bytes.length

/-! ### The decoder -/

/-- Why a list of bytes is no instruction: it is empty, or it ends before the operand bytes of its opcode. No opcode byte is
rejected: the refused ones of R150 decode to their own rows. -/
inductive DecodeError where
  | noBytes
  | truncated (op : Byte)
deriving DecidableEq, Repr

/-- What the decoder answers: an instruction and the bytes after it, or a rejection by name. -/
inductive Decoded where
  | instr (i : Instr) (rest : List Byte)
  | rejected (why : DecodeError)
deriving DecidableEq, Repr

/-- The decoder: the opcode alone fixes row and length (R141, R142, R151). -/
def decode : List Byte → Decoded
  | [] => .rejected .noBytes
  | op :: rest =>
    match (instrOf op 0 0).length, rest with
    | 1, rest => .instr (instrOf op 0 0) rest
    | 2, b1 :: rest => .instr (instrOf op b1 0) rest
    | 3, b1 :: b2 :: rest => .instr (instrOf op b1 b2) rest
    | _, _ => .rejected (.truncated op)

/-! ### The encoder -/

/-- The encoder: the opcode of the row, then its operand bytes (R140). -/
def encode (i : Instr) : List Byte := i.opcode :: i.shape.bytes

/-! ### The host's view of a word -/

/-- The three bytes of a word numbered as spec/opcode_table.json numbers it: the first byte least significant, every bit
from `nbits` up zero. Three bytes is the longest instruction (R142). -/
def wordBytes (nbits w : Nat) : List Byte :=
  let v := w % 2 ^ nbits
  [BitVec.ofNat 8 v, BitVec.ofNat 8 (v / 256), BitVec.ofNat 8 (v / 65536)]

/-- The instruction the decoder reads from a word laid out in memory order. -/
def decodeTableWord (nbits w : Nat) : Option Instr :=
  match decode (wordBytes nbits w) with
  | .instr i _ => some i
  | .rejected _ => none

end Sys2Proof
end

