-- ==== Sys2Proof/Config.lean ====
section
/-! DEFINITION. What is fixed for one console: the parameters of 00_scope.md R14, the cartridge's description (60_exceptions.md
R454), and the free values: what a block beside the CPU decides and the spec does not state. A free value has no body, so
nothing can be proved of it. -/

namespace Sys2Proof

/-! ### Parameters (R14) -/

/-- The parameter `platform`: the address map of 20_memory.md R83, or the flat RAM of harness H0 (95_test_vectors.md). -/
inductive Platform where
  | nes
  | flat
deriving DecidableEq, Repr

/-- The parameter `ppu_read_writeonly` (20_memory.md R85, D12): open_bus, one byte, or a byte the PPU block decides. -/
inductive WriteOnlyRead where
  | openBus
  | fixed (v : Byte)
  | free
deriving DecidableEq, Repr

/-- The parameters of R14 that stay in force after power-on, each at its default. `oamAlignEven` and `oamAlignOdd` are
`oam_dma_stall - 512` for an even and an odd `cycles` (20_memory.md R95, D13); `dmcIdle` is `dmc_stall - 1` (R97, D14). -/
structure Params where
  platform      : Platform := .nes
  oamAlignEven  : Nat := 1
  oamAlignOdd   : Nat := 2
  dmcIdle       : Nat := 3
  writeOnlyRead : WriteOnlyRead := .openBus
deriving DecidableEq, Repr

/-! ### The cartridge (20_memory.md R104, R105, 60_exceptions.md R454) -/

/-- The mirroring modes of R454. -/
inductive Mirroring where
  | horizontal
  | vertical
  | fourScreen
deriving DecidableEq, Repr

/-- What the cartridge input carries (R454), with the sizes of its PRG ROM and PRG RAM in bytes. -/
structure CartInfo where
  mapperId  : Nat := 0
  romSize   : Nat := 0
  ramSize   : Nat := 0
  chrRom    : List Byte := []
  mirroring : Mirroring := .horizontal
  battery   : Bool := false
deriving DecidableEq, Repr

/-- A window of CPU addresses, `first` to `last`, that the mapper translates to PRG RAM (`ram`) or PRG ROM from `offset` on
(R104). -/
structure PrgWindow where
  first  : Nat
  last   : Nat
  ram    : Bool
  offset : Nat
deriving DecidableEq, Repr

/-- A bank-select register of a bank-switch-only variant: a write of `v` to an address from `first` to `last` puts bank
`v mod count` of `size` bytes into the window of index `window` (DESIGN CHOICE, log 4). -/
structure BankRegister where
  first  : Nat
  last   : Nat
  window : Nat
  size   : Nat
  count  : Nat
deriving DecidableEq, Repr

/-- The mapper's variant (R105): one without bank-select registers, a bank-switch-only one, or any other, whose formats are not
in the spec and whose reactions are the free values below. -/
inductive Mapper where
  | fixed
  | banked (registers : List BankRegister)
  | variant
deriving DecidableEq, Repr

/-- The mapper's state: the bank-select state, which alone decides translation (R104), whatever else the variant counts, and its
IRQ flag (60_exceptions.md R429(3)). -/
structure MapperState where
  windows : List PrgWindow := []
  latch   : Nat := 0
  irq     : Bool := false
deriving DecidableEq, Repr, Inhabited

/-! ### Free values -/

/-- DESIGN CHOICE (log 24), safe. A byte the spec leaves open, applied to the number of free values drawn before it. -/
opaque Config.freeByte : Nat → Byte

/-- DESIGN CHOICE (log 12), safe. By how much an access to PPUDATA advances the VRAM address: R85 and R92 say that it
advances and not by how much. Applied to the number of free values drawn before it. -/
opaque Config.freeVramStep : Nat → Addr

/-- DESIGN CHOICE (log 28), safe. Does the PPU defer the application of what is written to a control, mask, scroll or address
register (60_exceptions.md R452)? Applied to the number of free values drawn before it. -/
opaque Config.freeDefers : Nat → Bool

/-- DESIGN CHOICE (log 28), safe. Is the PPU at a "visible/blank boundary", at which it applies what it has deferred (R452), at a
scanline and a dot? R452 does not say which positions are one. -/
opaque Config.latchBoundary : Nat → Nat → Bool

/-- DESIGN CHOICE (log 4), safe. The mapper's state after `cpu_write(address, byte)` on a variant whose formats the spec does not
give (R105). -/
opaque Config.mapperWrite : CartInfo → MapperState → Addr → Byte → MapperState

/-- DESIGN CHOICE (log 4), safe. The mapper's state after such a variant has observed a bus transaction: is it a write, its
address, its byte (R454). The windows of the answer are not used: only `cpu_write` and `tick()` change them (R104). -/
opaque Config.mapperObserve : CartInfo → MapperState → Bool → Addr → Byte → MapperState

/-- DESIGN CHOICE (log 4), safe. The mapper's state after such a variant's `tick()`s of one CPU cycle, which starts with the PPU
at a scanline and a dot and with rendering on or off (R82, R454). It may change the bank-select state (R104). -/
opaque Config.mapperTick : CartInfo → MapperState → Nat → Nat → Bool → MapperState

end Sys2Proof
end

