-- ==== Sys2Proof/Machine/State.lean ====
section
/-! DEFINITION. The state of the machine, plain data, and its value at power-on (10_state.md). `Bus` holds everything a bus
cycle can change; `State` is the CPU's registers, the bus, and what the outside world will do. -/

namespace Sys2Proof.Machine

/-! ### Storage -/

/-- Bytes by address, in one canonical form (`Memory.Wf`). -/
abbrev Memory := List Host.Cell

/-- The five windows of the address decoder (20_memory.md R83). -/
inductive Region where
  | ram
  | ppu
  | io
  | disabled
  | cart
deriving DecidableEq, Repr

/-! ### The blocks beside the CPU, as far as the CPU meets them (00_scope.md R7) -/

/-- A PPU register whose application the hardware may defer (60_exceptions.md R452): what was last written to it, what the PPU
works with, and whether the first is still to take the place of the second. -/
structure Latched (α : Type) where
  written : α
  inForce : α
  held    : Bool := false
deriving DecidableEq, Repr

/-- The PPU's registers and flags the CPU can reach and its raster position (20_memory.md R85, 60_exceptions.md R426, R451,
R452). `scrollX` and `scrollY` are PPUSCROLL's two bytes, `addrFirst` is PPUADDR's first byte, `vramAddr` is the address PPUADDR's
pair sets and PPUDATA moves, `writeLatch` is true between the two writes of a pair. Reset values: log 6, log 7, log 11. -/
structure Ppu where
  ctrl           : Latched Byte := { written := 0, inForce := 0 }
  mask           : Latched Byte := { written := 0, inForce := 0 }
  oamAddr        : Byte := 0
  scrollX        : Latched Byte := { written := 0, inForce := 0 }
  scrollY        : Latched Byte := { written := 0, inForce := 0 }
  addrFirst      : Byte := 0
  vramAddr       : Latched Addr := { written := 0, inForce := 0 }
  readBuffer     : Byte := 0
  writeLatch     : Bool := false
  vblank         : Bool := false
  spriteZero     : Bool := false
  spriteOverflow : Bool := false
  oam            : Memory := []
  scanline       : Nat := 0
  dot            : Nat := 0
  oddFrame       : Bool := false
deriving DecidableEq, Repr

/-- The APU as the CPU meets it (20_memory.md R87, R97, 60_exceptions.md R429): the byte last written to each register, keyed
by its offset from 0x4000, the two IRQ flags, the byte the DMC fetch delivered, and the clocks performed. -/
structure Apu where
  regs       : Memory := []
  frameIrq   : Bool := false
  dmcIrq     : Bool := false
  sampleByte : Byte := 0
  clock      : Nat := 0
deriving DecidableEq, Repr

/-- One controller port (20_memory.md R88): the host's snapshot and the bits still to be shifted out, next bit first. -/
structure Controller where
  buttons : Byte := 0
  shift   : List Bool := []
deriving DecidableEq, Repr

/-- The cartridge and its mapper (20_memory.md R104, 60_exceptions.md R454): what the cartridge input says, the variant, the PRG
ROM image by offset, PRG RAM by offset (power-on 0x00, log 3), and the mapper's state. By default nothing is plugged in (log 2). -/
structure Cartridge where
  info   : CartInfo := {}
  mapper : Mapper := .fixed
  rom    : Memory := []
  work   : Memory := []
  map    : MapperState := {}
deriving DecidableEq, Repr

/-- `dma_request` of 10_state.md R46, one field for each unit, since 20_memory.md R97 says what happens when both are pending
(log 20). -/
structure DmaRequest where
  oam : Option Byte := none
  dmc : Option Addr := none
deriving DecidableEq, Repr

/-- Everything on the bus (20_memory.md R82): the parameters, internal RAM by cell, devices, the cartridge, the open-bus latch,
the NMI latch and the cycle count. `freeCount`, the number of free values drawn, is the model's own (log 24). -/
structure Bus where
  params      : Params := {}
  mem         : Memory := []
  openBus     : Byte := 0
  cycles      : Nat := 0
  nmiPending  : Bool := false
  nmiLinePrev : Bool := false
  dma         : DmaRequest := {}
  ppu         : Ppu := {}
  apu         : Apu := {}
  pad1        : Controller := {}
  pad2        : Controller := {}
  cart        : Cartridge := {}
  freeCount   : Nat := 0
deriving DecidableEq, Repr

/-! ### The CPU -/

/-- The six stored flags of P (10_state.md R36, R37). Bits 5 and 4 have no storage (R38). -/
structure Flags where
  c : Bool := false
  z : Bool := false
  i : Bool := true
  d : Bool := false
  v : Bool := false
  n : Bool := false
deriving DecidableEq, Repr

/-- `IllegalOpcode(op, addr)` (60_exceptions.md R420): the opcode byte and its address. -/
structure IllegalOpcode where
  op   : Byte
  addr : Addr
deriving DecidableEq, Repr

/-- What the outside of the CPU can do at an instruction boundary (log 5): the host moves of 60_exceptions.md R446, and the
events the APU, the sprite unit and the mapper decide by means the spec does not give (R429, R452, 20_memory.md R97). -/
inductive PlatformEvent where
  /-- The reset signal (70_reset_and_hazards.md R503). -/
  | reset
  /-- A new button snapshot for controller 1 (R88, R446). -/
  | buttons1 (v : Byte)
  /-- A new button snapshot for controller 2 (R88, R446). -/
  | buttons2 (v : Byte)
  /-- The frame sequencer is at the last step of its cycle (R429(1)). -/
  | frameLastStep
  /-- The DMC's sample buffer ran out (R429(2)). -/
  | dmcExhausted
  /-- The DMC requests the sample byte at an address, during the coming step (R97). -/
  | dmcFetch (a : Addr)
  /-- The mapper sets or clears its IRQ line (R429(3)). -/
  | mapperIrq (level : Bool)
  /-- Sprite-zero hit (R452). -/
  | spriteZeroHit
  /-- The sprite-overflow flag is set (R452). -/
  | spriteOverflow
deriving DecidableEq, Repr

/-- The machine. `inputs` holds one group of events a step, next group first; it is the model's own (log 5). -/
structure State where
  a            : Byte := 0
  x            : Byte := 0
  y            : Byte := 0
  sp           : Byte := 0
  pc           : Addr := 0
  flags        : Flags := {}
  resetPending : Bool := true
  fatal        : Option IllegalOpcode := none
  bus          : Bus := {}
  inputs       : List (List PlatformEvent) := []
deriving DecidableEq, Repr

/-! ### Outcomes -/

/-- Why a step stops with a fault. -/
inductive Fault where
  /-- Raised by `step` of a machine whose `fatal` is set: every later step returns the same error and performs no bus cycle
  (60_exceptions.md R420). Safe: it is the spec's own stop. -/
  | illegalOpcode (op : Byte) (addr : Addr)
deriving DecidableEq, Repr

/-- Why an instruction has no meaning. -/
inductive Refusal where
  /-- Raised by an arm of `exec` that has no meaning yet; no arm is left so. Safe. -/
  | notModelled (mnemonic : String)
deriving DecidableEq, Repr

/-- The outcome of one instruction or step. -/
abbrev Result := Host.Outcome State Fault Refusal

/-! ### Power-on -/

/-- The parameters of 00_scope.md R14 and the cartridge (70_reset_and_hazards.md R500): `power_on_state` is the registers and
flags, with the defaults of 10_state.md R48, `ram_init` is `mem`, and `params` holds the others. -/
structure PowerOn where
  a      : Byte := 0
  x      : Byte := 0
  y      : Byte := 0
  sp     : Byte := 0
  pc     : Addr := 0
  flags  : Flags := {}
  mem    : Memory := []
  params : Params := {}
  cart   : Cartridge := {}
deriving DecidableEq, Repr

/-- Power-on (70_reset_and_hazards.md R501): `reset_pending` is set, so the first step runs the reset sequence. -/
def State.powerOn (p : PowerOn) : State :=
  { a := p.a, x := p.x, y := p.y, sp := p.sp, pc := p.pc, flags := p.flags, resetPending := true, fatal := none
    bus := { params := p.params, mem := p.mem, cart := p.cart }, inputs := [] }

/-- The machine right after power-on with every parameter at its default (10_state.md R48, log 1, log 2). -/
def State.reset : State := State.powerOn {}

end Sys2Proof.Machine
end

