-- ==== Sys2Proof/Machine/Memory.lean ====
section
/-! DEFINITION. Storage as a sorted list of cells, and the address decoder (20_memory.md R83, R84). -/

namespace Sys2Proof.Machine

/-! ### Bytes by cell -/

/-- What a cell with no entry reads as, in every store: 0x00 (DESIGN CHOICE; log 1 for internal RAM, log 3 for PRG RAM, log 11
for object memory, log 6 for the APU registers; of a PRG ROM image the bytes that are 0x00 need no entry). -/
def Memory.unlisted : Byte := 0

/-- The first entry of a cell. -/
def Memory.lookup : Memory → Nat → Option Byte
  | [], _ => none
  | (k, v) :: rest, a => if k = a then some v else Memory.lookup rest a

/-- The byte a cell reads as. -/
def Memory.byte (m : Memory) (a : Nat) : Byte := (Memory.lookup m a).getD Memory.unlisted

/-- Gives a cell an entry, in its place. -/
def Memory.put : Memory → Nat → Byte → Memory
  | [], a, v => [(a, v)]
  | (k, w) :: rest, a, v =>
    if a < k then (a, v) :: (k, w) :: rest
    else if a = k then (a, v) :: rest
    else (k, w) :: Memory.put rest a v

/-- Takes a cell's entry away. -/
def Memory.drop (m : Memory) (a : Nat) : Memory := m.filter (fun c => c.1 != a)

/-- Writes a byte, keeping the canonical form: a byte that reads the same without an entry has none. -/
def Memory.write (m : Memory) (a : Nat) (v : Byte) : Memory :=
  if v = Memory.unlisted then Memory.drop m a else Memory.put m a v

/-- Cells strictly rise. -/
def Memory.rising : Memory → Bool
  | [] => true
  | (k, _) :: rest => rest.all (fun c => decide (k < c.1)) && Memory.rising rest

/-- The canonical form: cells strictly rising, and no entry equal to what its cell reads as without one. -/
def Memory.wf (m : Memory) : Bool := Memory.rising m && m.all (fun c => decide (c.2 ≠ Memory.unlisted))

/-! ### The address decoder -/

/-- The window of an address (R83); on the flat platform every address is RAM (95_test_vectors.md harness H0, log 30). -/
def regionOf (p : Platform) (a : Addr) : Region :=
  match p with
  | .flat => .ram
  | .nes =>
    if a.toNat < 0x2000 then .ram
    else if a.toNat < 0x4000 then .ppu
    else if a.toNat < 0x4018 then .io
    else if a.toNat < 0x4020 then .disabled
    else .cart

/-- The RAM cell of an address in the RAM window: `a & 0x07FF` (R84), or the address itself on the flat platform. -/
def ramCell (p : Platform) (a : Addr) : Nat :=
  match p with
  | .flat => a.toNat
  | .nes => a.toNat % 0x0800

/-- How many RAM cells a platform has (R84). -/
def ramCells (p : Platform) : Nat :=
  match p with
  | .flat => 0x10000
  | .nes => 0x0800

/-- The window of an address on this bus. -/
def Bus.region (b : Bus) (a : Addr) : Region := regionOf b.params.platform a

/-- The RAM cell of an address on this bus. -/
def Bus.cell (b : Bus) (a : Addr) : Nat := ramCell b.params.platform a

/-! ### The mapper (R104, R105, 60_exceptions.md R454) -/

/-- A byte of PRG ROM or PRG RAM, by its offset. -/
inductive PrgCell where
  | rom (k : Nat)
  | ram (k : Nat)
deriving DecidableEq, Repr

/-- Is an address in a window? -/
def inWindow (w : PrgWindow) (a : Addr) : Bool := decide (w.first ≤ a.toNat) && decide (a.toNat ≤ w.last)

/-- The cell a window translates an address to, if the cartridge has it. -/
def windowCell (w : PrgWindow) (i : CartInfo) (a : Addr) : Option PrgCell :=
  let k := w.offset + (a.toNat - w.first)
  if w.ram then (if k < i.ramSize then some (.ram k) else none)
  else (if k < i.romSize then some (.rom k) else none)

/-- The mapper's translation, which depends on the bank-select state alone (R104): the first window that covers an address
decides; `none` where the mapper drives nothing. -/
def prgTranslate (ws : List PrgWindow) (i : CartInfo) (a : Addr) : Option PrgCell :=
  (ws.find? (fun w => inWindow w a)).bind (fun w => windowCell w i a)

/-- The cell of the cartridge at an address. -/
def Cartridge.target (c : Cartridge) (a : Addr) : Option PrgCell := prgTranslate c.map.windows c.info a

/-- The byte of a cell. -/
def Cartridge.byte (c : Cartridge) (k : PrgCell) : Byte :=
  match k with
  | .rom k => Memory.byte c.rom k
  | .ram k => Memory.byte c.work k

/-- The mapper's `cpu_read(address)`; `none` where it drives nothing. -/
def Cartridge.cpuRead (c : Cartridge) (a : Addr) : Option Byte := (c.target a).map c.byte

/-- PRG RAM takes a byte; a write of ROM stores nothing (R93). -/
def Cartridge.store (c : Cartridge) (a : Addr) (v : Byte) : Cartridge :=
  match c.target a with
  | some (.ram k) => { c with work := Memory.write c.work k v }
  | some (.rom _) => c
  | none => c

/-- Does a bank-select register answer to an address? -/
def inRegister (r : BankRegister) (a : Addr) : Bool := decide (r.first ≤ a.toNat) && decide (a.toNat ≤ r.last)

/-- The windows after a bank-select register took a byte. -/
def selectBank (r : BankRegister) (v : Byte) (ws : List PrgWindow) : List PrgWindow :=
  ws.modify r.window (fun w => { w with offset := v.toNat % r.count * r.size })

/-- The windows after every bank-select register that answers to an address took a byte. -/
def selectBanks (rs : List BankRegister) (a : Addr) (v : Byte) (ws : List PrgWindow) : List PrgWindow :=
  rs.foldl (fun ws r => if inRegister r a then selectBank r v ws else ws) ws

/-- The mapper's state after `cpu_write(address, byte)`. -/
def Cartridge.afterWrite (c : Cartridge) (a : Addr) (v : Byte) : MapperState :=
  match c.mapper with
  | .fixed => c.map
  | .banked rs => { c.map with windows := selectBanks rs a v c.map.windows }
  | .variant => Config.mapperWrite c.info c.map a v

/-- The mapper's `cpu_write(address, byte)`: PRG RAM takes the byte under the translation in force, then the bank-select state
changes (R104); a write of ROM is seen too (R93). -/
def Cartridge.cpuWrite (c : Cartridge) (a : Addr) (v : Byte) : Cartridge :=
  { c.store a v with map := c.afterWrite a v }

/-- The mapper observes a bus transaction, wherever it goes (R454); translation stays as it is (R104). -/
def Cartridge.observe (c : Cartridge) (write : Bool) (a : Addr) (v : Byte) : Cartridge :=
  match c.mapper with
  | .fixed => c
  | .banked _ => c
  | .variant =>
    let m := Config.mapperObserve c.info c.map write a v
    { c with map := { c.map with latch := m.latch, irq := m.irq } }

/-- The mapper's `tick()`s of one CPU cycle, which starts with the PPU at a position (R82, R454). -/
def Cartridge.tick (c : Cartridge) (scanline dot : Nat) (rendering : Bool) : Cartridge :=
  match c.mapper with
  | .fixed => c
  | .banked _ => c
  | .variant => { c with map := Config.mapperTick c.info c.map scanline dot rendering }

/-- A mapper whose state changes by `cpu_write` only. -/
def Cartridge.quiet (c : Cartridge) : Bool :=
  match c.mapper with
  | .fixed => true
  | .banked _ => true
  | .variant => false

/-- Can a write of an address change the mapper's state? -/
def Cartridge.selects (c : Cartridge) (a : Addr) : Bool :=
  match c.mapper with
  | .fixed => false
  | .banked rs => rs.any (fun r => inRegister r a)
  | .variant => true

/-! ### Storage -/

/-- The byte of plain storage an address reads as: RAM, or what the cartridge drives; `none` for a device register and for an
address nobody drives. -/
def Bus.storage (b : Bus) (a : Addr) : Option Byte :=
  match b.region a with
  | .ram => some (Memory.byte b.mem (b.cell a))
  | .cart => b.cart.cpuRead a
  | .ppu => none
  | .io => none
  | .disabled => none

/-- Do two addresses name the same byte of storage? They do if they are equal, RAM mirrors of one cell (R84), or translated to
one byte of PRG RAM (R104). -/
def Bus.sameCell (b : Bus) (a e : Addr) : Bool :=
  decide (a = e) ||
    (decide (b.region a = .ram) && decide (b.region e = .ram) && decide (b.cell a = b.cell e)) ||
    (decide (b.region a = .cart) && decide (b.region e = .cart) &&
      (match b.cart.target e with
       | some (.ram k) => decide (b.cart.target a = some (.ram k))
       | some (.rom _) => false
       | none => false))

end Sys2Proof.Machine
end

