-- ==== Sys2Proof/Machine/Devices.lean ====
section
/-! DEFINITION. The registers of the PPU, the APU and the controllers as the CPU meets them (20_memory.md R85, R87, R88, R92,
R93), and the PPU's raster (60_exceptions.md R426, R451, R452). -/

namespace Sys2Proof.Machine

/-- Takes the next free byte (log 24). -/
def Bus.drawByte (b : Bus) : Byte × Bus := (Config.freeByte b.freeCount, { b with freeCount := b.freeCount + 1 })

/-! ### Registers whose application the PPU may defer (60_exceptions.md R452, log 28) -/

/-- A write, which is applied at once unless it is deferred. -/
def Latched.write {α : Type} (r : Latched α) (v : α) (defer : Bool) : Latched α :=
  { written := v, inForce := if defer then r.inForce else v, held := defer }

/-- What was deferred is applied. -/
def Latched.settle {α : Type} (r : Latched α) : Latched α :=
  { written := r.written, inForce := if r.held then r.written else r.inForce, held := false }

/-- Is an application of some register deferred? -/
def Ppu.holds (p : Ppu) : Bool := p.ctrl.held || p.mask.held || p.scrollX.held || p.scrollY.held || p.vramAddr.held

/-- Is this position a "visible/blank boundary" (R452)? The first dot of scanline 0, with which the visible scanlines begin
(R451), is one; which others are is free. -/
def Ppu.atBoundary (p : Ppu) : Bool := (p.scanline == 0 && p.dot == 0) || Config.latchBoundary p.scanline p.dot

/-- What was deferred is applied at the next visible/blank boundary (R452). -/
def Ppu.settle (p : Ppu) : Ppu :=
  if p.holds && p.atBoundary then
    { p with
      ctrl := p.ctrl.settle
      mask := p.mask.settle
      scrollX := p.scrollX.settle
      scrollY := p.scrollY.settle
      vramAddr := p.vramAddr.settle }
  else p

/-! ### The PPU's raster (R451) -/

/-- The NMI output level, `vblank_flag AND nmi_enable` (R426); nmi_enable is PPUCTRL bit 7 as written, which is never deferred:
R426 has the level follow the write. -/
def Ppu.nmiLevel (p : Ppu) : Bool := p.vblank && p.ctrl.written.getLsbD 7

/-- Is rendering enabled? PPUMASK bit 3 or 4: PRESUMED (the family's), log 8. -/
def Ppu.rendering (p : Ppu) : Bool := p.mask.inForce.getLsbD 3 || p.mask.inForce.getLsbD 4

/-- Is this the last dot of its scanline? Dot 340, but dot 339 of the pre-render scanline of an odd frame with rendering
enabled (R451; which dot is skipped is PRESUMED, log 8). -/
def Ppu.lastDot (p : Ppu) : Bool :=
  decide (p.dot ≥ 340) || (decide (p.scanline = 261) && decide (p.dot = 339) && p.oddFrame && p.rendering)

/-- The position one dot on (R451). -/
def Ppu.move (p : Ppu) : Ppu :=
  if p.lastDot then
    if p.scanline ≥ 261 then { p with scanline := 0, dot := 0, oddFrame := !p.oddFrame }
    else { p with scanline := p.scanline + 1, dot := 0 }
  else { p with dot := p.dot + 1 }

/-- What happens at the position reached (R426, R451): vertical blank begins at dot 1 of scanline 241 and ends at dot 1 of
scanline 261, where the two sprite flags are cleared too (that dot is PRESUMED, log 9). -/
def Ppu.mark (p : Ppu) : Ppu :=
  if p.scanline = 241 ∧ p.dot = 1 then { p with vblank := true }
  else if p.scanline = 261 ∧ p.dot = 1 then { p with vblank := false, spriteZero := false, spriteOverflow := false }
  else p

/-- One PPU dot. -/
def Ppu.advance (p : Ppu) : Ppu := p.move.mark.settle

/-! ### PPU registers (R85) -/

/-- PPUSTATUS: bits 7, 6 and 5 as R85 gives them; the low five bits are `low`'s (log 10). -/
def Ppu.status (p : Ppu) (low : Byte) : Byte :=
  BitVec.ofBool p.vblank ++ BitVec.ofBool p.spriteZero ++ BitVec.ofBool p.spriteOverflow ++ low.setWidth 5

/-- What a read of a write-only PPU register returns: the parameter `ppu_read_writeonly` (R85, log 16). -/
def Bus.writeOnlyRead (b : Bus) : Byte × Bus :=
  match b.params.writeOnlyRead with
  | .openBus => (b.openBus, b)
  | .fixed v => (v, b)
  | .free => b.drawByte

/-- An access of PPUDATA advances the VRAM address (R85, R92). -/
def Ppu.moveAddr (p : Ppu) (step : Addr) : Ppu :=
  { p with vramAddr := { p.vramAddr with inForce := p.vramAddr.inForce + step } }

/-- A read of PPU register 0 to 7. Register 2 clears vertical blank and the write latch (R85, R92); register 4 returns a free
byte (log 11); register 7 returns the buffered byte and advances the VRAM address, and the buffer takes a free byte (R92, log 12);
the others are write-only. -/
def Bus.ppuRead (b : Bus) (reg : Nat) : Byte × Bus :=
  match reg with
  | 2 =>
    let d := b.drawByte
    (b.ppu.status d.1, { d.2 with ppu := { b.ppu with vblank := false, writeLatch := false } })
  | 4 => b.drawByte
  | 7 =>
    let d := b.drawByte
    (b.ppu.readBuffer,
      { d.2 with ppu := { b.ppu.moveAddr (Config.freeVramStep b.freeCount) with readBuffer := d.1 } })
  | _ => b.writeOnlyRead

/-- A write of PPU register 0 to 7 (R85). Whether the application of a control, mask, scroll or address write is deferred is a
free value (R452, log 28). Registers 5 and 6 take two writes, told apart by the write latch (R452), which is never deferred; the
second write of PPUADDR sets the VRAM address, first byte high (PRESUMED, log 13). A write of OAMDATA stores at OAMADDR and moves
on (PRESUMED, log 11). A write of PPUSTATUS, which is read-only, does nothing (DEDUCED, log 15). -/
def Bus.ppuWrite (b : Bus) (reg : Nat) (v : Byte) : Bus :=
  let n := b.freeCount
  let defer := Config.freeDefers n
  match reg with
  | 0 => { b with ppu := { b.ppu with ctrl := b.ppu.ctrl.write v defer }, freeCount := n + 1 }
  | 1 => { b with ppu := { b.ppu with mask := b.ppu.mask.write v defer }, freeCount := n + 1 }
  | 3 => { b with ppu := { b.ppu with oamAddr := v } }
  | 4 => { b with ppu := { b.ppu with oam := Memory.write b.ppu.oam b.ppu.oamAddr.toNat v, oamAddr := b.ppu.oamAddr + 1 } }
  | 5 =>
    if b.ppu.writeLatch then
      { b with ppu := { b.ppu with scrollY := b.ppu.scrollY.write v defer, writeLatch := false }, freeCount := n + 1 }
    else { b with ppu := { b.ppu with scrollX := b.ppu.scrollX.write v defer, writeLatch := true }, freeCount := n + 1 }
  | 6 =>
    if b.ppu.writeLatch then
      { b with
        ppu := { b.ppu with vramAddr := b.ppu.vramAddr.write (concat b.ppu.addrFirst v) defer, writeLatch := false }
        freeCount := n + 1 }
    else { b with ppu := { b.ppu with addrFirst := v, writeLatch := true } }
  | 7 => { b with ppu := b.ppu.moveAddr (Config.freeVramStep n), freeCount := n + 1 }
  | _ => b

/-! ### APU and controller registers (R87, R88), by their offset from 0x4000 -/

/-- The byte last written to an APU register. -/
def Apu.reg (p : Apu) (r : Nat) : Byte := Memory.byte p.regs r

/-- The bits a strobe latches, in the order A, B, Select, Start, Up, Down, Left, Right (R88); that A is bit 0 of the snapshot is
PRESUMED (log 19). -/
def buttonBits (v : Byte) : List Bool :=
  [v.getLsbD 0, v.getLsbD 1, v.getLsbD 2, v.getLsbD 3, v.getLsbD 4, v.getLsbD 5, v.getLsbD 6, v.getLsbD 7]

/-- A strobe latches the snapshot (R88). -/
def Controller.strobe (c : Controller) : Controller := { c with shift := buttonBits c.buttons }

/-- The byte a controller port returns: the next button bit in bit 0 (R88), the upper bits free; when all eight bits are out,
bit 0 is free as well (log 19). -/
def Controller.value (c : Controller) (free : Byte) : Byte :=
  match c.shift with
  | [] => free
  | bit :: _ => free.extractLsb' 1 7 ++ BitVec.ofBool bit

/-- One bit shifted out. -/
def Controller.next (c : Controller) : Controller := { c with shift := c.shift.tail }

/-- A read of an APU/IO register. 0x4015 returns a free byte (log 17) and clears the frame-IRQ flag (R87, R429); 0x4016 and 0x4017
shift out one button bit (R88); the others are write-only and return `open_bus` (R87). -/
def Bus.ioRead (b : Bus) (r : Nat) : Byte × Bus :=
  match r with
  | 0x15 =>
    let d := b.drawByte
    (d.1, { d.2 with apu := { b.apu with frameIrq := false } })
  | 0x16 =>
    let d := b.drawByte
    (b.pad1.value d.1, { d.2 with pad1 := b.pad1.next })
  | 0x17 =>
    let d := b.drawByte
    (b.pad2.value d.1, { d.2 with pad2 := b.pad2.next })
  | _ => (b.openBus, b)

/-- What a write of an APU register does to the APU: the byte is held; 0x4010 with bit 7 clear and any write of 0x4015 clear the
DMC IRQ, 0x4017 with bit 6 set clears the frame IRQ (R429). -/
def Apu.write (p : Apu) (r : Nat) (v : Byte) : Apu :=
  { p with
    regs := Memory.write p.regs r v
    dmcIrq := p.dmcIrq && !(r == 0x15) && !(r == 0x10 && !v.getLsbD 7)
    frameIrq := p.frameIrq && !(r == 0x17 && v.getLsbD 6) }

/-- A write of an APU/IO register: 0x4014 requests the OAM DMA (R95), 0x4016 with bit 0 set strobes both controllers (R88), the
rest are the APU's (R87). -/
def Bus.ioWrite (b : Bus) (r : Nat) (v : Byte) : Bus :=
  match r with
  | 0x14 => { b with dma := { b.dma with oam := some v } }
  | 0x16 => if v.getLsbD 0 then { b with pad1 := b.pad1.strobe, pad2 := b.pad2.strobe } else b
  | _ => { b with apu := b.apu.write r v }

/-- The NMI level the CPU samples (R426): the PPU's, or none on the flat platform, which has no PPU (log 30). -/
def Bus.nmiLevel (b : Bus) : Bool := decide (b.params.platform = .nes) && b.ppu.nmiLevel

/-- `irq_line` (60_exceptions.md R430). -/
def Bus.irqLine (b : Bus) : Bool := b.apu.frameIrq || b.apu.dmcIrq || b.cart.map.irq

end Sys2Proof.Machine
end

