-- ==== Sys2Proof/Machine/Bus.lean ====
section
/-! DEFINITION. The bus cycle (20_memory.md R81, R82, R86; 00_scope.md R18, R19): dispatch, platform tick, NMI sample, cycle
count, in this order. -/

namespace Sys2Proof.Machine

/-- The platform tick, step (2) of R82: three PPU dots, one APU clock, and the mapper's `tick()` (60_exceptions.md R454). -/
def Bus.tickPlatform (b : Bus) : Bus :=
  { b with
    ppu := b.ppu.advance.advance.advance
    apu := { b.apu with clock := b.apu.clock + 1 }
    cart := b.cart.tick b.ppu.scanline b.ppu.dot b.ppu.rendering }

/-- Step (3) of R82: the NMI sample (60_exceptions.md R428). -/
def Bus.sampleNmi (b : Bus) : Bus :=
  { b with nmiPending := b.nmiPending || (b.nmiLevel && !b.nmiLinePrev), nmiLinePrev := b.nmiLevel }

/-- Steps (2) to (4) of R82, which are also a DMA's idle cycle (R95). -/
def Bus.tick (b : Bus) : Bus :=
  let c := b.tickPlatform.sampleNmi
  { c with cycles := c.cycles + 1 }

/-- A byte on the data bus (R86). -/
def Bus.drive (b : Bus) (v : Byte) : Bus := { b with openBus := v }

/-- The handler's answer to a read: its byte, which is driven, or `open_bus` where no handler drives one (R83, R86). -/
def Bus.answer (b : Bus) (a : Addr) : Byte × Bus :=
  match b.region a with
  | .ram =>
    let v := Memory.byte b.mem (b.cell a)
    (v, b.drive v)
  | .ppu =>
    let r := b.ppuRead (a.toNat % 8)
    (r.1, r.2.drive r.1)
  | .io =>
    let r := b.ioRead (a.toNat - 0x4000)
    (r.1, r.2.drive r.1)
  | .disabled => (b.openBus, b)
  | .cart =>
    match b.cart.cpuRead a with
    | some v => (v, b.drive v)
    | none => (b.openBus, b)

/-- What the handler of a written address does with the byte: RAM is written at its cell (R84), the cartridge window is the
mapper's (R93, R104); a write of a disabled register is ignored (R83). -/
def Bus.store (b : Bus) (a : Addr) (v : Byte) : Bus :=
  match b.region a with
  | .ram => { b with mem := Memory.write b.mem (b.cell a) v }
  | .ppu => b.ppuWrite (a.toNat % 8) v
  | .io => b.ioWrite (a.toNat - 0x4000) v
  | .disabled => b
  | .cart => { b with cart := b.cart.cpuWrite a v }

/-- The mapper observes the transaction (60_exceptions.md R454). -/
def Bus.observe (b : Bus) (write : Bool) (a : Addr) (v : Byte) : Bus := { b with cart := b.cart.observe write a v }

/-- Step (1) of R82 for a read. -/
def Bus.accessRead (b : Bus) (a : Addr) : Byte × Bus :=
  let r := b.answer a
  (r.1, r.2.observe false a r.1)

/-- Step (1) of R82 for a write: every write drives the bus (R86). -/
def Bus.accessWrite (b : Bus) (a : Addr) (v : Byte) : Bus := ((b.drive v).store a v).observe true a v

/-- `Read(a)` (R18). -/
def Bus.read (b : Bus) (a : Addr) : Byte × Bus :=
  let r := b.accessRead a
  (r.1, r.2.tick)

/-- `DummyRead(a)` (R18): a read whose byte is not used. -/
def Bus.dummyRead (b : Bus) (a : Addr) : Bus := (b.read a).2

/-- `Write(a, v)` (R19). -/
def Bus.write (b : Bus) (a : Addr) (v : Byte) : Bus := (b.accessWrite a v).tick

end Sys2Proof.Machine
end

