-- ==== Sys2Proof/Machine/Flags.lean ====
section
/-! DEFINITION. Every flag computation of the spec: the packed status byte (10_state.md R36 to R39) and the arithmetic of
43_alu.md and 44_shift_rotate.md. Sums are exact and narrowed at the end. -/

namespace Sys2Proof.Machine

/-- `Pbyte(b)` (R39): N V 1 B D I Z C from bit 7 down. -/
def Flags.pack (f : Flags) (b : Bool) : Byte :=
  BitVec.ofBool f.n ++ BitVec.ofBool f.v ++ 1#1 ++ BitVec.ofBool b ++ BitVec.ofBool f.d ++ BitVec.ofBool f.i ++
    BitVec.ofBool f.z ++ BitVec.ofBool f.c

/-- `SetP(v)` (R39): bits 5 and 4 are discarded (R38). -/
def Flags.unpack (v : Byte) : Flags :=
  { c := v.getLsbD 0, z := v.getLsbD 1, i := v.getLsbD 2, d := v.getLsbD 3, v := v.getLsbD 6, n := v.getLsbD 7 }

/-- `SetNZ(r)` (R39). -/
def Flags.setNZ (f : Flags) (r : Byte) : Flags := { f with n := r.getLsbD 7, z := r == 0 }

/-- What an ALU operation gives: the byte and the flags after it. -/
structure AluResult where
  value : Byte
  flags : Flags
deriving DecidableEq, Repr

/-- A bit as a number. -/
def bitNat (b : Bool) : Nat := if b then 1 else 0

/-- ADC of `a` and `m` (R262); D has no effect (R260). -/
def adc (a m : Byte) (f : Flags) : AluResult :=
  let sum := a.toNat + m.toNat + bitNat f.c
  let r := BitVec.ofNat 8 sum
  { value := r
    flags := { f.setNZ r with c := decide (sum > 255), v := (((a ^^^ r) &&& (m ^^^ r)) &&& 0x80) != 0 } }

/-- SBC of `m` from `a` (R263); D has no effect (R260). -/
def sbc (a m : Byte) (f : Flags) : AluResult :=
  let sum := a.toNat + (0xFF ^^^ m).toNat + bitNat f.c
  let r := BitVec.ofNat 8 sum
  { value := r
    flags := { f.setNZ r with c := decide (sum > 255), v := (((a ^^^ m) &&& (a ^^^ r)) &&& 0x80) != 0 } }

/-- CMP, CPX and CPY of a register and an operand (R268, R269, R270). -/
def compareFlags (r m : Byte) (f : Flags) : Flags :=
  { f with c := decide (r.toNat ≥ m.toNat), z := r == m, n := (r - m).getLsbD 7 }

/-- BIT of A and the operand (R267). -/
def bitTest (a m : Byte) (f : Flags) : Flags :=
  { f with z := (a &&& m) == 0, n := m.getLsbD 7, v := m.getLsbD 6 }

/-- ASL (R300). -/
def shiftLeft (m : Byte) (f : Flags) : AluResult :=
  let r := m <<< 1
  { value := r, flags := { f.setNZ r with c := m.getLsbD 7 } }

/-- LSR (R301). -/
def shiftRight (m : Byte) (f : Flags) : AluResult :=
  let r := m >>> 1
  { value := r, flags := { f.setNZ r with c := m.getLsbD 0 } }

/-- ROL (R302). -/
def rotateLeft (m : Byte) (f : Flags) : AluResult :=
  let r := (m <<< 1) ||| BitVec.ofNat 8 (bitNat f.c)
  { value := r, flags := { f.setNZ r with c := m.getLsbD 7 } }

/-- ROR (R303). -/
def rotateRight (m : Byte) (f : Flags) : AluResult :=
  let r := (m >>> 1) ||| (BitVec.ofNat 8 (bitNat f.c) <<< 7)
  { value := r, flags := { f.setNZ r with c := m.getLsbD 0 } }

/-- INC (R271). -/
def increment (m : Byte) (f : Flags) : AluResult :=
  let r := m + 1
  { value := r, flags := f.setNZ r }

/-- DEC (R272). -/
def decrement (m : Byte) (f : Flags) : AluResult :=
  let r := m - 1
  { value := r, flags := f.setNZ r }

end Sys2Proof.Machine
end

