-- ==== Sys2Proof/Machine/Operands.lean ====
section
/-! DEFINITION. The addressing modes (40_addressing_modes.md R183 to R191) from the cycle after the operand bytes were fetched
(log 22). An operand form answers with the bus after its cycles, so no mode can touch a register. -/

namespace Sys2Proof.Machine

/-- The indexed end of R189 and R191: the address with its high byte fixed, and the dummy read at the unfixed one. A Read-class
access makes it only when the page is crossed, the other classes always. -/
def indexed (cls : AccessClass) (base : Addr) (index : Byte) (b : Bus) : Addr × Bus :=
  let ea := base + index.setWidth 16
  let wrong := concat (hi base) (lo base + index)
  if cls = .read ∧ wrong = ea then (ea, b) else (ea, b.dummyRead wrong)

/-- The effective address of a mode, and the bus after the cycles that compute it (R186 to R191). -/
def resolve (cls : AccessClass) (e : EaMode) (s : State) : Addr × Bus :=
  match e with
  | .zp z => (zeroPage z, s.bus)
  | .zpX z => (zeroPage (z + s.x), s.bus.dummyRead (zeroPage z))
  | .zpY z => (zeroPage (z + s.y), s.bus.dummyRead (zeroPage z))
  | .abs a => (a, s.bus)
  | .absX a => indexed cls a s.x s.bus
  | .absY a => indexed cls a s.y s.bus
  | .indX z =>
    let l := (s.bus.dummyRead (zeroPage z)).read (zeroPage (z + s.x))
    let h := l.2.read (zeroPage (z + s.x + 1))
    (concat h.1 l.1, h.2)
  | .indY z =>
    let l := s.bus.read (zeroPage z)
    let h := l.2.read (zeroPage (z + 1))
    indexed cls (concat h.1 l.1) s.y h.2

/-- `Operand()` of R182: the operand byte and the bus after its cycles. An immediate operand was fetched with the instruction
(R185). -/
def readOperand (o : Operand) (s : State) : Byte × Bus :=
  match o with
  | .imm m => (m, s.bus)
  | .mem e =>
    let r := resolve .read e s
    r.2.read r.1

/-- `Store(v)` of R182. -/
def storeOperand (e : EaMode) (v : Byte) (s : State) : Bus :=
  let r := resolve .write e s
  r.2.write r.1 v

/-- `Modify(f)` of R182 (R181): read, write the unmodified byte back, write the result. Answers the byte read, the result `f`
gives of it, and the bus after. -/
def modifyOperand (e : EaMode) (f : Byte → AluResult) (s : State) : AluResult × Bus :=
  let r := resolve .rmw e s
  let m := r.2.read r.1
  let res := f m.1
  (res, (m.2.write r.1 m.1).write r.1 res.value)

end Sys2Proof.Machine
end

