-- ==== Sys2Proof/Machine/Ops.lean ====
section
/-! DEFINITION. The named operations over memory and registers: the stack (00_scope.md R19), taking an exception and returning
from one (60_exceptions.md R433, R420, 46_flags_system.md R360, R361), reset (70_reset_and_hazards.md R502), and placing a
program. -/

namespace Sys2Proof.Machine

/-! ### Cycles of the CPU -/

/-- `DummyRead(a)`. -/
def State.dummyRead (s : State) (a : Addr) : State := { s with bus := s.bus.dummyRead a }

/-- `Write(a, v)`. -/
def State.write (s : State) (a : Addr) (v : Byte) : State := { s with bus := s.bus.write a v }

/-- `DummyRead(PC)` of the implied mode (40_addressing_modes.md R183). -/
def State.dummyFetch (s : State) : State := s.dummyRead s.pc

/-- `Read(PC); PC++` (40_addressing_modes.md section 2). -/
def State.fetchByte (s : State) : Byte × State :=
  let r := s.bus.read s.pc
  (r.1, { s with bus := r.2, pc := s.pc + 1 })

/-! ### The stack (10_state.md R34) -/

/-- The stack slot S points at: `0x0100 + S`. -/
def stackAddr (sp : Byte) : Addr := concat 1 sp

/-- `Push(v)` (R19). -/
def State.push (s : State) (v : Byte) : State :=
  { s with bus := s.bus.write (stackAddr s.sp) v, sp := s.sp - 1 }

/-- The cycle that reads the old top of the stack and raises S, with which every pull begins (42_stack.md R252). -/
def State.raiseSp (s : State) : State := { s with bus := s.bus.dummyRead (stackAddr s.sp), sp := s.sp + 1 }

/-- `Read(0x0100 + S)`. -/
def State.readTop (s : State) : Byte × State :=
  let r := s.bus.read (stackAddr s.sp)
  (r.1, { s with bus := r.2 })

/-- `Read(0x0100 + S); S <- (S + 1) mod 256` (R333, R361). -/
def State.popByte (s : State) : Byte × State :=
  let r := s.bus.read (stackAddr s.sp)
  (r.1, { s with bus := r.2, sp := s.sp + 1 })

/-! ### Taking an exception -/

/-- What enters a handler: the two polled interrupts (60_exceptions.md R433) and BRK (46_flags_system.md R360). -/
inductive Entry where
  | nmi
  | irq
  | brk
deriving DecidableEq, Repr

/-- `vector(kind)` (R433, D8): NMI 0xFFFA; IRQ and BRK share 0xFFFE. -/
def Entry.vector : Entry → Addr
  | .nmi => 0xFFFA
  | .irq => 0xFFFE
  | .brk => 0xFFFE

/-- The reset vector (R433, 70_reset_and_hazards.md R502). -/
def resetVector : Addr := 0xFFFC

/-- Bit 4 of the pushed status: 1 for BRK, 0 for the polled interrupts (10_state.md R38). -/
def Entry.breakBit : Entry → Bool
  | .nmi => false
  | .irq => false
  | .brk => true

/-- The last two cycles of every entry and of reset: `lo <- Read(v); I <- 1; hi <- Read(v + 1); PC <- concat(hi, lo)`. -/
def State.loadVector (s : State) (v : Addr) : State :=
  let l := s.bus.read v
  let h := l.2.read (v + 1)
  { s with bus := h.2, pc := concat h.1 l.1, flags := { s.flags with i := true } }

/-- Cycles 3 to 7 of an entry (R433, R360): push PC high, PC low and P, clear the pending NMI edge if the NMI is taken, and go
to the handler with I set. -/
def State.takeException (s : State) (k : Entry) : State :=
  let s := s.push (hi s.pc)
  let s := s.push (lo s.pc)
  let s := s.push (s.flags.pack k.breakBit)
  let s := if k = .nmi then { s with bus := { s.bus with nmiPending := false } } else s
  s.loadVector k.vector

/-- `InterruptEntry(kind)` (R433): two discarded fetches, then the entry. -/
def State.interruptEntry (s : State) (k : Entry) : State := (s.dummyFetch.dummyFetch).takeException k

/-- Cycles 3 to 6 of RTI (R361): P and then PC from the stack; no +1. -/
def State.returnFromException (s : State) : State :=
  let s := s.raiseSp
  let p := s.popByte
  let s := { p.2 with flags := Flags.unpack p.1 }
  let l := s.popByte
  let h := l.2.readTop
  { h.2 with pc := concat h.1 l.1 }

/-- `raise IllegalOpcode(op, addr)` (R420): the fetch has happened and PC is one further; `fatal` records the opcode and its
address, and nothing else changes. -/
def State.raiseIllegal (s : State) (op : Byte) : State := { s with fatal := some { op := op, addr := s.pc - 1 } }

/-- A reset's read of the stack in place of a push (70_reset_and_hazards.md R502). -/
def State.resetPop (s : State) : State := { s with bus := s.bus.dummyRead (stackAddr s.sp), sp := s.sp - 1 }

/-- `ResetSequence()` (R502). Its seven reads drive the data bus as every read does (20_memory.md R86, 00_scope.md R18), so
`open_bus` ends as the last byte driven: DESIGN CHOICE (log 32), since R503 and 10_state.md R48 list `open_bus` among what a reset
keeps. So with `nmi_line_prev`, which R48 (R504) lists as unchanged and the seven cycles sample (60_exceptions.md R428): DESIGN
CHOICE (log 33). -/
def State.resetSequence (s : State) : State :=
  let s := s.dummyFetch.dummyFetch
  let s := s.resetPop.resetPop.resetPop
  let s := { s with resetPending := false, bus := { s.bus with nmiPending := false, dma := {} } }
  s.loadVector resetVector

/-! ### What the next step does -/

/-- What is taken at an instruction boundary. -/
inductive Boundary where
  | reset
  | nmi
  | irq
  | instruction
deriving DecidableEq, Repr

/-- The poll (40_addressing_modes.md R180, 60_exceptions.md R431, R432, R434): reset, then NMI, then IRQ if I is clear. -/
def State.poll (s : State) : Boundary :=
  if s.resetPending then .reset
  else if s.bus.nmiPending then .nmi
  else if s.bus.irqLine && !s.flags.i then .irq
  else .instruction

/-! ### Fetching an instruction -/

/-- JSR fetches the high byte of its target after its pushes (45_control_transfer.md R332). -/
def fetchesTargetLate (op : Byte) : Bool := op == 0x20

/-- The fetch cycles of R151 and R180: the opcode, then the operand bytes, each at PC with PC advancing. JSR's last byte is
only looked at: the instruction reads it in its own sixth cycle (R332, log 22). -/
def State.fetchInstr (s : State) : Instr × State :=
  let o := s.fetchByte
  if (instrOf o.1 0 0).length ≤ 1 then (instrOf o.1 0 0, o.2)
  else
    let l := o.2.fetchByte
    if (instrOf o.1 0 0).length ≤ 2 then (instrOf o.1 l.1 0, l.2)
    else if fetchesTargetLate o.1 then (instrOf o.1 l.1 l.2.fetchByte.1, l.2)
    else
      let h := l.2.fetchByte
      (instrOf o.1 l.1 h.1, h.2)

/-! ### Placing bytes from outside -/

/-- A byte placed in a cell of the cartridge. -/
def Cartridge.place (c : Cartridge) (a : Addr) (v : Byte) : Cartridge :=
  match c.target a with
  | some (.ram k) => { c with work := Memory.write c.work k v }
  | some (.rom k) => { c with rom := Memory.write c.rom k v }
  | none => c

/-- A byte placed in storage from outside, as a cartridge or a test harness does, under the translation in force. -/
def Bus.place (b : Bus) (a : Addr) (v : Byte) : Bus :=
  match b.region a with
  | .ram => { b with mem := Memory.write b.mem (b.cell a) v }
  | .cart => { b with cart := b.cart.place a v }
  | .ppu => b
  | .io => b
  | .disabled => b

/-- Three bytes placed in a row. -/
def Bus.place3 (b : Bus) (a : Addr) (b0 b1 b2 : Byte) : Bus := ((b.place a b0).place (a + 1) b1).place (a + 2) b2

/-- Do three bytes in a row stand in storage? -/
def Bus.holds3 (b : Bus) (a : Addr) (b0 b1 b2 : Byte) : Bool :=
  b.storage a == some b0 && b.storage (a + 1) == some b1 && b.storage (a + 2) == some b2

/-- Can bytes placed at an address be fetched from there, one after the other? Not from a window of a mapper that may change its
banks from cycle to cycle, nor where the three addresses are not three cells of storage. -/
def Bus.placeable (b : Bus) (a : Addr) (b0 b1 b2 : Byte) : Bool :=
  (b.cart.quiet || (b.region a == .ram && b.region (a + 1) == .ram && b.region (a + 2) == .ram)) &&
    (b.place3 a b0 b1 b2).holds3 a b0 b1 b2

/-- The machine with bytes placed at PC, and with nothing in the way of running them: not fatal, no reset, NMI or IRQ, no input
at the next boundary. Where PC points at something the bytes cannot be placed in, PC goes to 0x0200 first, which is RAM on every
platform (log 23). -/
def State.placeAtPc (s : State) (b0 b1 b2 : Byte) : State :=
  let pc := if s.bus.placeable s.pc b0 b1 b2 then s.pc else 0x0200
  let b := s.bus.place3 pc b0 b1 b2
  { s with
    pc := pc
    resetPending := false
    fatal := none
    inputs := [] :: s.inputs
    bus := { b with
      nmiPending := false
      apu := { b.apu with frameIrq := false, dmcIrq := false }
      cart := { b.cart with map := { b.cart.map with irq := false } } } }

end Sys2Proof.Machine
end

