-- ==== Sys2Proof/Machine/Alu.lean ====
section
/-! DEFINITION. Arithmetic, logic, compare, increment and decrement (43_alu.md). -/

namespace Sys2Proof.Machine

/-- ADC (R262): the operand and the carry added to A. -/
def opAdc (o : Operand) (s : State) : State :=
  let r := readOperand o s
  let q := adc s.a r.1 s.flags
  { s with bus := r.2, a := q.value, flags := q.flags }

/-- 0x61 ADC (zp,X) (R262). -/
def execAdcIndX (z : Byte) (s : State) : Result := .next (opAdc (.mem (.indX z)) s)

/-- 0x65 ADC zp (R262). -/
def execAdcZp (z : Byte) (s : State) : Result := .next (opAdc (.mem (.zp z)) s)

/-- 0x69 ADC # (R262). -/
def execAdcImm (m : Byte) (s : State) : Result := .next (opAdc (.imm m) s)

/-- 0x6D ADC abs (R262). -/
def execAdcAbs (a : Addr) (s : State) : Result := .next (opAdc (.mem (.abs a)) s)

/-- 0x71 ADC (zp),Y (R262). -/
def execAdcIndY (z : Byte) (s : State) : Result := .next (opAdc (.mem (.indY z)) s)

/-- 0x75 ADC zp,X (R262). -/
def execAdcZpX (z : Byte) (s : State) : Result := .next (opAdc (.mem (.zpX z)) s)

/-- 0x79 ADC abs,Y (R262). -/
def execAdcAbsY (a : Addr) (s : State) : Result := .next (opAdc (.mem (.absY a)) s)

/-- 0x7D ADC abs,X (R262). -/
def execAdcAbsX (a : Addr) (s : State) : Result := .next (opAdc (.mem (.absX a)) s)

/-- SBC (R263): the operand and the inverted carry subtracted from A. -/
def opSbc (o : Operand) (s : State) : State :=
  let r := readOperand o s
  let q := sbc s.a r.1 s.flags
  { s with bus := r.2, a := q.value, flags := q.flags }

/-- 0xE1 SBC (zp,X) (R263). -/
def execSbcIndX (z : Byte) (s : State) : Result := .next (opSbc (.mem (.indX z)) s)

/-- 0xE5 SBC zp (R263). -/
def execSbcZp (z : Byte) (s : State) : Result := .next (opSbc (.mem (.zp z)) s)

/-- 0xE9 SBC # (R263). -/
def execSbcImm (m : Byte) (s : State) : Result := .next (opSbc (.imm m) s)

/-- 0xED SBC abs (R263). -/
def execSbcAbs (a : Addr) (s : State) : Result := .next (opSbc (.mem (.abs a)) s)

/-- 0xF1 SBC (zp),Y (R263). -/
def execSbcIndY (z : Byte) (s : State) : Result := .next (opSbc (.mem (.indY z)) s)

/-- 0xF5 SBC zp,X (R263). -/
def execSbcZpX (z : Byte) (s : State) : Result := .next (opSbc (.mem (.zpX z)) s)

/-- 0xF9 SBC abs,Y (R263). -/
def execSbcAbsY (a : Addr) (s : State) : Result := .next (opSbc (.mem (.absY a)) s)

/-- 0xFD SBC abs,X (R263). -/
def execSbcAbsX (a : Addr) (s : State) : Result := .next (opSbc (.mem (.absX a)) s)

/-- AND (R264). -/
def opAnd (o : Operand) (s : State) : State :=
  let r := readOperand o s
  let v := s.a &&& r.1
  { s with bus := r.2, a := v, flags := s.flags.setNZ v }

/-- 0x21 AND (zp,X) (R264). -/
def execAndIndX (z : Byte) (s : State) : Result := .next (opAnd (.mem (.indX z)) s)

/-- 0x25 AND zp (R264). -/
def execAndZp (z : Byte) (s : State) : Result := .next (opAnd (.mem (.zp z)) s)

/-- 0x29 AND # (R264). -/
def execAndImm (m : Byte) (s : State) : Result := .next (opAnd (.imm m) s)

/-- 0x2D AND abs (R264). -/
def execAndAbs (a : Addr) (s : State) : Result := .next (opAnd (.mem (.abs a)) s)

/-- 0x31 AND (zp),Y (R264). -/
def execAndIndY (z : Byte) (s : State) : Result := .next (opAnd (.mem (.indY z)) s)

/-- 0x35 AND zp,X (R264). -/
def execAndZpX (z : Byte) (s : State) : Result := .next (opAnd (.mem (.zpX z)) s)

/-- 0x39 AND abs,Y (R264). -/
def execAndAbsY (a : Addr) (s : State) : Result := .next (opAnd (.mem (.absY a)) s)

/-- 0x3D AND abs,X (R264). -/
def execAndAbsX (a : Addr) (s : State) : Result := .next (opAnd (.mem (.absX a)) s)

/-- ORA (R265). -/
def opOra (o : Operand) (s : State) : State :=
  let r := readOperand o s
  let v := s.a ||| r.1
  { s with bus := r.2, a := v, flags := s.flags.setNZ v }

/-- 0x01 ORA (zp,X) (R265). -/
def execOraIndX (z : Byte) (s : State) : Result := .next (opOra (.mem (.indX z)) s)

/-- 0x05 ORA zp (R265). -/
def execOraZp (z : Byte) (s : State) : Result := .next (opOra (.mem (.zp z)) s)

/-- 0x09 ORA # (R265). -/
def execOraImm (m : Byte) (s : State) : Result := .next (opOra (.imm m) s)

/-- 0x0D ORA abs (R265). -/
def execOraAbs (a : Addr) (s : State) : Result := .next (opOra (.mem (.abs a)) s)

/-- 0x11 ORA (zp),Y (R265). -/
def execOraIndY (z : Byte) (s : State) : Result := .next (opOra (.mem (.indY z)) s)

/-- 0x15 ORA zp,X (R265). -/
def execOraZpX (z : Byte) (s : State) : Result := .next (opOra (.mem (.zpX z)) s)

/-- 0x19 ORA abs,Y (R265). -/
def execOraAbsY (a : Addr) (s : State) : Result := .next (opOra (.mem (.absY a)) s)

/-- 0x1D ORA abs,X (R265). -/
def execOraAbsX (a : Addr) (s : State) : Result := .next (opOra (.mem (.absX a)) s)

/-- EOR (R266). -/
def opEor (o : Operand) (s : State) : State :=
  let r := readOperand o s
  let v := s.a ^^^ r.1
  { s with bus := r.2, a := v, flags := s.flags.setNZ v }

/-- 0x41 EOR (zp,X) (R266). -/
def execEorIndX (z : Byte) (s : State) : Result := .next (opEor (.mem (.indX z)) s)

/-- 0x45 EOR zp (R266). -/
def execEorZp (z : Byte) (s : State) : Result := .next (opEor (.mem (.zp z)) s)

/-- 0x49 EOR # (R266). -/
def execEorImm (m : Byte) (s : State) : Result := .next (opEor (.imm m) s)

/-- 0x4D EOR abs (R266). -/
def execEorAbs (a : Addr) (s : State) : Result := .next (opEor (.mem (.abs a)) s)

/-- 0x51 EOR (zp),Y (R266). -/
def execEorIndY (z : Byte) (s : State) : Result := .next (opEor (.mem (.indY z)) s)

/-- 0x55 EOR zp,X (R266). -/
def execEorZpX (z : Byte) (s : State) : Result := .next (opEor (.mem (.zpX z)) s)

/-- 0x59 EOR abs,Y (R266). -/
def execEorAbsY (a : Addr) (s : State) : Result := .next (opEor (.mem (.absY a)) s)

/-- 0x5D EOR abs,X (R266). -/
def execEorAbsX (a : Addr) (s : State) : Result := .next (opEor (.mem (.absX a)) s)

/-- BIT (R267): A and memory are unchanged. -/
def opBit (o : Operand) (s : State) : State :=
  let r := readOperand o s
  { s with bus := r.2, flags := bitTest s.a r.1 s.flags }

/-- 0x24 BIT zp (R267). -/
def execBitZp (z : Byte) (s : State) : Result := .next (opBit (.mem (.zp z)) s)

/-- 0x2C BIT abs (R267). -/
def execBitAbs (a : Addr) (s : State) : Result := .next (opBit (.mem (.abs a)) s)

/-- CMP (R268): A is unchanged. -/
def opCmp (o : Operand) (s : State) : State :=
  let r := readOperand o s
  { s with bus := r.2, flags := compareFlags s.a r.1 s.flags }

/-- 0xC1 CMP (zp,X) (R268). -/
def execCmpIndX (z : Byte) (s : State) : Result := .next (opCmp (.mem (.indX z)) s)

/-- 0xC5 CMP zp (R268). -/
def execCmpZp (z : Byte) (s : State) : Result := .next (opCmp (.mem (.zp z)) s)

/-- 0xC9 CMP # (R268). -/
def execCmpImm (m : Byte) (s : State) : Result := .next (opCmp (.imm m) s)

/-- 0xCD CMP abs (R268). -/
def execCmpAbs (a : Addr) (s : State) : Result := .next (opCmp (.mem (.abs a)) s)

/-- 0xD1 CMP (zp),Y (R268). -/
def execCmpIndY (z : Byte) (s : State) : Result := .next (opCmp (.mem (.indY z)) s)

/-- 0xD5 CMP zp,X (R268). -/
def execCmpZpX (z : Byte) (s : State) : Result := .next (opCmp (.mem (.zpX z)) s)

/-- 0xD9 CMP abs,Y (R268). -/
def execCmpAbsY (a : Addr) (s : State) : Result := .next (opCmp (.mem (.absY a)) s)

/-- 0xDD CMP abs,X (R268). -/
def execCmpAbsX (a : Addr) (s : State) : Result := .next (opCmp (.mem (.absX a)) s)

/-- CPX (R269): X is unchanged. -/
def opCpx (o : Operand) (s : State) : State :=
  let r := readOperand o s
  { s with bus := r.2, flags := compareFlags s.x r.1 s.flags }

/-- 0xE0 CPX # (R269). -/
def execCpxImm (m : Byte) (s : State) : Result := .next (opCpx (.imm m) s)

/-- 0xE4 CPX zp (R269). -/
def execCpxZp (z : Byte) (s : State) : Result := .next (opCpx (.mem (.zp z)) s)

/-- 0xEC CPX abs (R269). -/
def execCpxAbs (a : Addr) (s : State) : Result := .next (opCpx (.mem (.abs a)) s)

/-- CPY (R270): Y is unchanged. -/
def opCpy (o : Operand) (s : State) : State :=
  let r := readOperand o s
  { s with bus := r.2, flags := compareFlags s.y r.1 s.flags }

/-- 0xC0 CPY # (R270). -/
def execCpyImm (m : Byte) (s : State) : Result := .next (opCpy (.imm m) s)

/-- 0xC4 CPY zp (R270). -/
def execCpyZp (z : Byte) (s : State) : Result := .next (opCpy (.mem (.zp z)) s)

/-- 0xCC CPY abs (R270). -/
def execCpyAbs (a : Addr) (s : State) : Result := .next (opCpy (.mem (.abs a)) s)

/-- INC (R271): `Modify`, with N and Z of the written value. -/
def opInc (e : EaMode) (s : State) : State :=
  let r := modifyOperand e (fun m => increment m s.flags) s
  { s with bus := r.2, flags := r.1.flags }

/-- 0xE6 INC zp (R271). -/
def execIncZp (z : Byte) (s : State) : Result := .next (opInc (.zp z) s)

/-- 0xEE INC abs (R271). -/
def execIncAbs (a : Addr) (s : State) : Result := .next (opInc (.abs a) s)

/-- 0xF6 INC zp,X (R271). -/
def execIncZpX (z : Byte) (s : State) : Result := .next (opInc (.zpX z) s)

/-- 0xFE INC abs,X (R271). -/
def execIncAbsX (a : Addr) (s : State) : Result := .next (opInc (.absX a) s)

/-- DEC (R272): `Modify`, with N and Z of the written value. -/
def opDec (e : EaMode) (s : State) : State :=
  let r := modifyOperand e (fun m => decrement m s.flags) s
  { s with bus := r.2, flags := r.1.flags }

/-- 0xC6 DEC zp (R272). -/
def execDecZp (z : Byte) (s : State) : Result := .next (opDec (.zp z) s)

/-- 0xCE DEC abs (R272). -/
def execDecAbs (a : Addr) (s : State) : Result := .next (opDec (.abs a) s)

/-- 0xD6 DEC zp,X (R272). -/
def execDecZpX (z : Byte) (s : State) : Result := .next (opDec (.zpX z) s)

/-- 0xDE DEC abs,X (R272). -/
def execDecAbsX (a : Addr) (s : State) : Result := .next (opDec (.absX a) s)

/-- INX (R273): `DummyRead(PC); X <- (X + 1) mod 256; SetNZ(X)`. -/
def opInx (s : State) : State :=
  let s := s.dummyFetch
  { s with x := s.x + 1, flags := s.flags.setNZ (s.x + 1) }

/-- 0xE8 INX (R273). -/
def execInx (s : State) : Result := .next (opInx s)

/-- INY (R274): `DummyRead(PC); Y <- (Y + 1) mod 256; SetNZ(Y)`. -/
def opIny (s : State) : State :=
  let s := s.dummyFetch
  { s with y := s.y + 1, flags := s.flags.setNZ (s.y + 1) }

/-- 0xC8 INY (R274). -/
def execIny (s : State) : Result := .next (opIny s)

/-- DEX (R275): `DummyRead(PC); X <- (X - 1) mod 256; SetNZ(X)`. -/
def opDex (s : State) : State :=
  let s := s.dummyFetch
  { s with x := s.x - 1, flags := s.flags.setNZ (s.x - 1) }

/-- 0xCA DEX (R275). -/
def execDex (s : State) : Result := .next (opDex s)

/-- DEY (R276): `DummyRead(PC); Y <- (Y - 1) mod 256; SetNZ(Y)`. -/
def opDey (s : State) : State :=
  let s := s.dummyFetch
  { s with y := s.y - 1, flags := s.flags.setNZ (s.y - 1) }

/-- 0x88 DEY (R276). -/
def execDey (s : State) : Result := .next (opDey s)

end Sys2Proof.Machine
end

