-- ==== Sys2Proof/Machine/Control.lean ====
section
/-! DEFINITION. Branches, jumps and subroutines (45_control_transfer.md). -/

namespace Sys2Proof.Machine

/-- The sequence every branch runs (R320), from its third cycle: PC is the address of the next instruction. -/
def branch (cond : Bool) (d : Byte) (s : State) : State :=
  if cond then
    let t := s.pc + sext8 d
    if hi t = hi s.pc then { s.dummyFetch with pc := t }
    else { s.dummyFetch.dummyRead (concat (hi s.pc) (lo t)) with pc := t }
  else s

/-- 0x10 BPL rel (R321). -/
def execBpl (d : Byte) (s : State) : Result := .next (branch (!s.flags.n) d s)

/-- 0x30 BMI rel (R322). -/
def execBmi (d : Byte) (s : State) : Result := .next (branch (s.flags.n) d s)

/-- 0x50 BVC rel (R323). -/
def execBvc (d : Byte) (s : State) : Result := .next (branch (!s.flags.v) d s)

/-- 0x70 BVS rel (R324). -/
def execBvs (d : Byte) (s : State) : Result := .next (branch (s.flags.v) d s)

/-- 0x90 BCC rel (R325). -/
def execBcc (d : Byte) (s : State) : Result := .next (branch (!s.flags.c) d s)

/-- 0xB0 BCS rel (R326). -/
def execBcs (d : Byte) (s : State) : Result := .next (branch (s.flags.c) d s)

/-- 0xD0 BNE rel (R327). -/
def execBne (d : Byte) (s : State) : Result := .next (branch (!s.flags.z) d s)

/-- 0xF0 BEQ rel (R328). -/
def execBeq (d : Byte) (s : State) : Result := .next (branch (s.flags.z) d s)

/-- JMP absolute (R330): the operand bytes are the target. -/
def opJmpAbs (a : Addr) (s : State) : State := { s with pc := a }

/-- JMP indirect (R331): the pointer's high byte is read in the page of its low byte. -/
def opJmpInd (a : Addr) (s : State) : State :=
  let l := s.bus.read a
  let h := l.2.read (concat (hi a) (lo a + 1))
  { s with bus := h.2, pc := concat h.1 l.1 }

/-- 0x4C JMP abs (R330). -/
def execJmpAbs (a : Addr) (s : State) : Result := .next (opJmpAbs a s)

/-- 0x6C JMP (ind) (R331). -/
def execJmpInd (a : Addr) (s : State) : Result := .next (opJmpInd a s)

/-- JSR (R332), from its third cycle: PC is the address of its own last byte, which is pushed and then read for the high byte
of the target. The high byte of `a` is what stood there before the pushes; the machine uses what it reads (log 22). -/
def opJsr (a : Addr) (s : State) : State :=
  let s := s.dummyRead (stackAddr s.sp)
  let s := s.push (hi s.pc)
  let s := s.push (lo s.pc)
  let h := s.bus.read s.pc
  { s with bus := h.2, pc := concat h.1 (lo a) }

/-- 0x20 JSR abs (R332). -/
def execJsr (a : Addr) (s : State) : Result := .next (opJsr a s)

/-- RTS (R333): the pulled address, plus 1. -/
def opRts (s : State) : State :=
  let s := s.dummyFetch.raiseSp
  let l := s.popByte
  let h := l.2.readTop
  { h.2.dummyRead (concat h.1 l.1) with pc := concat h.1 l.1 + 1 }

/-- 0x60 RTS (R333). -/
def execRts (s : State) : Result := .next (opRts s)

end Sys2Proof.Machine
end

