-- ==== Sys2Proof/Machine/LoadStore.lean ====
section
/-! DEFINITION. Loads, stores and register transfers (41_load_store_transfer.md). -/

namespace Sys2Proof.Machine

/-- LDA (R220): `m <- Operand(); A <- m; SetNZ(A)`. -/
def opLda (o : Operand) (s : State) : State :=
  let r := readOperand o s
  { s with bus := r.2, a := r.1, flags := s.flags.setNZ r.1 }

/-- 0xA1 LDA (zp,X) (R220). -/
def execLdaIndX (z : Byte) (s : State) : Result := .next (opLda (.mem (.indX z)) s)

/-- 0xA5 LDA zp (R220). -/
def execLdaZp (z : Byte) (s : State) : Result := .next (opLda (.mem (.zp z)) s)

/-- 0xA9 LDA # (R220). -/
def execLdaImm (m : Byte) (s : State) : Result := .next (opLda (.imm m) s)

/-- 0xAD LDA abs (R220). -/
def execLdaAbs (a : Addr) (s : State) : Result := .next (opLda (.mem (.abs a)) s)

/-- 0xB1 LDA (zp),Y (R220). -/
def execLdaIndY (z : Byte) (s : State) : Result := .next (opLda (.mem (.indY z)) s)

/-- 0xB5 LDA zp,X (R220). -/
def execLdaZpX (z : Byte) (s : State) : Result := .next (opLda (.mem (.zpX z)) s)

/-- 0xB9 LDA abs,Y (R220). -/
def execLdaAbsY (a : Addr) (s : State) : Result := .next (opLda (.mem (.absY a)) s)

/-- 0xBD LDA abs,X (R220). -/
def execLdaAbsX (a : Addr) (s : State) : Result := .next (opLda (.mem (.absX a)) s)

/-- LDX (R221): `m <- Operand(); X <- m; SetNZ(X)`. -/
def opLdx (o : Operand) (s : State) : State :=
  let r := readOperand o s
  { s with bus := r.2, x := r.1, flags := s.flags.setNZ r.1 }

/-- 0xA2 LDX # (R221). -/
def execLdxImm (m : Byte) (s : State) : Result := .next (opLdx (.imm m) s)

/-- 0xA6 LDX zp (R221). -/
def execLdxZp (z : Byte) (s : State) : Result := .next (opLdx (.mem (.zp z)) s)

/-- 0xAE LDX abs (R221). -/
def execLdxAbs (a : Addr) (s : State) : Result := .next (opLdx (.mem (.abs a)) s)

/-- 0xB6 LDX zp,Y (R221). -/
def execLdxZpY (z : Byte) (s : State) : Result := .next (opLdx (.mem (.zpY z)) s)

/-- 0xBE LDX abs,Y (R221). -/
def execLdxAbsY (a : Addr) (s : State) : Result := .next (opLdx (.mem (.absY a)) s)

/-- LDY (R222): `m <- Operand(); Y <- m; SetNZ(Y)`. -/
def opLdy (o : Operand) (s : State) : State :=
  let r := readOperand o s
  { s with bus := r.2, y := r.1, flags := s.flags.setNZ r.1 }

/-- 0xA0 LDY # (R222). -/
def execLdyImm (m : Byte) (s : State) : Result := .next (opLdy (.imm m) s)

/-- 0xA4 LDY zp (R222). -/
def execLdyZp (z : Byte) (s : State) : Result := .next (opLdy (.mem (.zp z)) s)

/-- 0xAC LDY abs (R222). -/
def execLdyAbs (a : Addr) (s : State) : Result := .next (opLdy (.mem (.abs a)) s)

/-- 0xB4 LDY zp,X (R222). -/
def execLdyZpX (z : Byte) (s : State) : Result := .next (opLdy (.mem (.zpX z)) s)

/-- 0xBC LDY abs,X (R222). -/
def execLdyAbsX (a : Addr) (s : State) : Result := .next (opLdy (.mem (.absX a)) s)

/-- STA (R223): `Store(A)`. -/
def opSta (e : EaMode) (s : State) : State := { s with bus := storeOperand e s.a s }

/-- 0x81 STA (zp,X) (R223). -/
def execStaIndX (z : Byte) (s : State) : Result := .next (opSta (.indX z) s)

/-- 0x85 STA zp (R223). -/
def execStaZp (z : Byte) (s : State) : Result := .next (opSta (.zp z) s)

/-- 0x8D STA abs (R223). -/
def execStaAbs (a : Addr) (s : State) : Result := .next (opSta (.abs a) s)

/-- 0x91 STA (zp),Y (R223). -/
def execStaIndY (z : Byte) (s : State) : Result := .next (opSta (.indY z) s)

/-- 0x95 STA zp,X (R223). -/
def execStaZpX (z : Byte) (s : State) : Result := .next (opSta (.zpX z) s)

/-- 0x99 STA abs,Y (R223). -/
def execStaAbsY (a : Addr) (s : State) : Result := .next (opSta (.absY a) s)

/-- 0x9D STA abs,X (R223). -/
def execStaAbsX (a : Addr) (s : State) : Result := .next (opSta (.absX a) s)

/-- STX (R224): `Store(X)`. -/
def opStx (e : EaMode) (s : State) : State := { s with bus := storeOperand e s.x s }

/-- 0x86 STX zp (R224). -/
def execStxZp (z : Byte) (s : State) : Result := .next (opStx (.zp z) s)

/-- 0x8E STX abs (R224). -/
def execStxAbs (a : Addr) (s : State) : Result := .next (opStx (.abs a) s)

/-- 0x96 STX zp,Y (R224). -/
def execStxZpY (z : Byte) (s : State) : Result := .next (opStx (.zpY z) s)

/-- STY (R225): `Store(Y)`. -/
def opSty (e : EaMode) (s : State) : State := { s with bus := storeOperand e s.y s }

/-- 0x84 STY zp (R225). -/
def execStyZp (z : Byte) (s : State) : Result := .next (opSty (.zp z) s)

/-- 0x8C STY abs (R225). -/
def execStyAbs (a : Addr) (s : State) : Result := .next (opSty (.abs a) s)

/-- 0x94 STY zp,X (R225). -/
def execStyZpX (z : Byte) (s : State) : Result := .next (opSty (.zpX z) s)

/-- TAX (R226): `DummyRead(PC); X <- A; SetNZ(X)`. -/
def opTax (s : State) : State :=
  let s := s.dummyFetch
  { s with x := s.a, flags := s.flags.setNZ s.a }

/-- 0xAA TAX (R226). -/
def execTax (s : State) : Result := .next (opTax s)

/-- TAY (R227): `DummyRead(PC); Y <- A; SetNZ(Y)`. -/
def opTay (s : State) : State :=
  let s := s.dummyFetch
  { s with y := s.a, flags := s.flags.setNZ s.a }

/-- 0xA8 TAY (R227). -/
def execTay (s : State) : Result := .next (opTay s)

/-- TXA (R228): `DummyRead(PC); A <- X; SetNZ(A)`. -/
def opTxa (s : State) : State :=
  let s := s.dummyFetch
  { s with a := s.x, flags := s.flags.setNZ s.x }

/-- 0x8A TXA (R228). -/
def execTxa (s : State) : Result := .next (opTxa s)

/-- TYA (R229): `DummyRead(PC); A <- Y; SetNZ(A)`. -/
def opTya (s : State) : State :=
  let s := s.dummyFetch
  { s with a := s.y, flags := s.flags.setNZ s.y }

/-- 0x98 TYA (R229). -/
def execTya (s : State) : Result := .next (opTya s)

/-- TSX (R230): `DummyRead(PC); X <- S; SetNZ(X)`. -/
def opTsx (s : State) : State :=
  let s := s.dummyFetch
  { s with x := s.sp, flags := s.flags.setNZ s.sp }

/-- 0xBA TSX (R230). -/
def execTsx (s : State) : Result := .next (opTsx s)

/-- TXS (R231): `DummyRead(PC); S <- X`; no flag changes. -/
def opTxs (s : State) : State :=
  let s := s.dummyFetch
  { s with sp := s.x }

/-- 0x9A TXS (R231). -/
def execTxs (s : State) : Result := .next (opTxs s)

end Sys2Proof.Machine
end

