-- ==== Sys2Proof/Machine/Refused.lean ====
section
/-! DEFINITION. The 25 refused opcodes (30_encoding.md R150): each takes the exception IllegalOpcode (60_exceptions.md R420). -/

namespace Sys2Proof.Machine

/-- 0x02 JAM (R150, R420). -/
def execJam02 (s : State) : Result := .next (s.raiseIllegal 0x02)

/-- 0x12 JAM (R150, R420). -/
def execJam12 (s : State) : Result := .next (s.raiseIllegal 0x12)

/-- 0x22 JAM (R150, R420). -/
def execJam22 (s : State) : Result := .next (s.raiseIllegal 0x22)

/-- 0x32 JAM (R150, R420). -/
def execJam32 (s : State) : Result := .next (s.raiseIllegal 0x32)

/-- 0x42 JAM (R150, R420). -/
def execJam42 (s : State) : Result := .next (s.raiseIllegal 0x42)

/-- 0x52 JAM (R150, R420). -/
def execJam52 (s : State) : Result := .next (s.raiseIllegal 0x52)

/-- 0x62 JAM (R150, R420). -/
def execJam62 (s : State) : Result := .next (s.raiseIllegal 0x62)

/-- 0x72 JAM (R150, R420). -/
def execJam72 (s : State) : Result := .next (s.raiseIllegal 0x72)

/-- 0x92 JAM (R150, R420). -/
def execJam92 (s : State) : Result := .next (s.raiseIllegal 0x92)

/-- 0xB2 JAM (R150, R420). -/
def execJamB2 (s : State) : Result := .next (s.raiseIllegal 0xB2)

/-- 0xD2 JAM (R150, R420). -/
def execJamD2 (s : State) : Result := .next (s.raiseIllegal 0xD2)

/-- 0xF2 JAM (R150, R420). -/
def execJamF2 (s : State) : Result := .next (s.raiseIllegal 0xF2)

/-- 0x0B ANC (R150, R420). -/
def execAnc0B (s : State) : Result := .next (s.raiseIllegal 0x0B)

/-- 0x2B ANC (R150, R420). -/
def execAnc2B (s : State) : Result := .next (s.raiseIllegal 0x2B)

/-- 0x4B ALR (R150, R420). -/
def execAlr (s : State) : Result := .next (s.raiseIllegal 0x4B)

/-- 0x6B ARR (R150, R420). -/
def execArr (s : State) : Result := .next (s.raiseIllegal 0x6B)

/-- 0x8B XAA (R150, R420). -/
def execXaa (s : State) : Result := .next (s.raiseIllegal 0x8B)

/-- 0xAB LXA (R150, R420). -/
def execLxa (s : State) : Result := .next (s.raiseIllegal 0xAB)

/-- 0xCB SBX (R150, R420). -/
def execSbx (s : State) : Result := .next (s.raiseIllegal 0xCB)

/-- 0x93 SHA (R150, R420). -/
def execSha93 (s : State) : Result := .next (s.raiseIllegal 0x93)

/-- 0x9F SHA (R150, R420). -/
def execSha9F (s : State) : Result := .next (s.raiseIllegal 0x9F)

/-- 0x9C SHY (R150, R420). -/
def execShy (s : State) : Result := .next (s.raiseIllegal 0x9C)

/-- 0x9E SHX (R150, R420). -/
def execShx (s : State) : Result := .next (s.raiseIllegal 0x9E)

/-- 0x9B TAS (R150, R420). -/
def execTas (s : State) : Result := .next (s.raiseIllegal 0x9B)

/-- 0xBB LAS (R150, R420). -/
def execLas (s : State) : Result := .next (s.raiseIllegal 0xBB)

end Sys2Proof.Machine
end

