-- ==== Sys2Proof/Machine/Shift.lean ====
section
/-! DEFINITION. Shifts and rotates (44_shift_rotate.md). -/

namespace Sys2Proof.Machine

/-- ASL on memory (R300): `Modify(f)`. -/
def opAsl (e : EaMode) (s : State) : State :=
  let r := modifyOperand e (fun m => shiftLeft m s.flags) s
  { s with bus := r.2, flags := r.1.flags }

/-- ASL on the accumulator (R300, 40_addressing_modes.md R184). -/
def opAslAcc (s : State) : State :=
  let s := s.dummyFetch
  let q := shiftLeft s.a s.flags
  { s with a := q.value, flags := q.flags }

/-- 0x06 ASL zp (R300). -/
def execAslZp (z : Byte) (s : State) : Result := .next (opAsl (.zp z) s)

/-- 0x0A ASL A (R300). -/
def execAslAcc (s : State) : Result := .next (opAslAcc s)

/-- 0x0E ASL abs (R300). -/
def execAslAbs (a : Addr) (s : State) : Result := .next (opAsl (.abs a) s)

/-- 0x16 ASL zp,X (R300). -/
def execAslZpX (z : Byte) (s : State) : Result := .next (opAsl (.zpX z) s)

/-- 0x1E ASL abs,X (R300). -/
def execAslAbsX (a : Addr) (s : State) : Result := .next (opAsl (.absX a) s)

/-- LSR on memory (R301): `Modify(f)`. -/
def opLsr (e : EaMode) (s : State) : State :=
  let r := modifyOperand e (fun m => shiftRight m s.flags) s
  { s with bus := r.2, flags := r.1.flags }

/-- LSR on the accumulator (R301, 40_addressing_modes.md R184). -/
def opLsrAcc (s : State) : State :=
  let s := s.dummyFetch
  let q := shiftRight s.a s.flags
  { s with a := q.value, flags := q.flags }

/-- 0x46 LSR zp (R301). -/
def execLsrZp (z : Byte) (s : State) : Result := .next (opLsr (.zp z) s)

/-- 0x4A LSR A (R301). -/
def execLsrAcc (s : State) : Result := .next (opLsrAcc s)

/-- 0x4E LSR abs (R301). -/
def execLsrAbs (a : Addr) (s : State) : Result := .next (opLsr (.abs a) s)

/-- 0x56 LSR zp,X (R301). -/
def execLsrZpX (z : Byte) (s : State) : Result := .next (opLsr (.zpX z) s)

/-- 0x5E LSR abs,X (R301). -/
def execLsrAbsX (a : Addr) (s : State) : Result := .next (opLsr (.absX a) s)

/-- ROL on memory (R302): `Modify(f)`. -/
def opRol (e : EaMode) (s : State) : State :=
  let r := modifyOperand e (fun m => rotateLeft m s.flags) s
  { s with bus := r.2, flags := r.1.flags }

/-- ROL on the accumulator (R302, 40_addressing_modes.md R184). -/
def opRolAcc (s : State) : State :=
  let s := s.dummyFetch
  let q := rotateLeft s.a s.flags
  { s with a := q.value, flags := q.flags }

/-- 0x26 ROL zp (R302). -/
def execRolZp (z : Byte) (s : State) : Result := .next (opRol (.zp z) s)

/-- 0x2A ROL A (R302). -/
def execRolAcc (s : State) : Result := .next (opRolAcc s)

/-- 0x2E ROL abs (R302). -/
def execRolAbs (a : Addr) (s : State) : Result := .next (opRol (.abs a) s)

/-- 0x36 ROL zp,X (R302). -/
def execRolZpX (z : Byte) (s : State) : Result := .next (opRol (.zpX z) s)

/-- 0x3E ROL abs,X (R302). -/
def execRolAbsX (a : Addr) (s : State) : Result := .next (opRol (.absX a) s)

/-- ROR on memory (R303): `Modify(f)`. -/
def opRor (e : EaMode) (s : State) : State :=
  let r := modifyOperand e (fun m => rotateRight m s.flags) s
  { s with bus := r.2, flags := r.1.flags }

/-- ROR on the accumulator (R303, 40_addressing_modes.md R184). -/
def opRorAcc (s : State) : State :=
  let s := s.dummyFetch
  let q := rotateRight s.a s.flags
  { s with a := q.value, flags := q.flags }

/-- 0x66 ROR zp (R303). -/
def execRorZp (z : Byte) (s : State) : Result := .next (opRor (.zp z) s)

/-- 0x6A ROR A (R303). -/
def execRorAcc (s : State) : Result := .next (opRorAcc s)

/-- 0x6E ROR abs (R303). -/
def execRorAbs (a : Addr) (s : State) : Result := .next (opRor (.abs a) s)

/-- 0x76 ROR zp,X (R303). -/
def execRorZpX (z : Byte) (s : State) : Result := .next (opRor (.zpX z) s)

/-- 0x7E ROR abs,X (R303). -/
def execRorAbsX (a : Addr) (s : State) : Result := .next (opRor (.absX a) s)

end Sys2Proof.Machine
end

