-- ==== Sys2Proof/Machine/Stack.lean ====
section
/-! DEFINITION. The stack instructions (42_stack.md). -/

namespace Sys2Proof.Machine

/-- PHA (R250): `DummyRead(PC)`, then push A. -/
def opPha (s : State) : State := s.dummyFetch.push s.a

/-- 0x48 PHA (R250). -/
def execPha (s : State) : Result := .next (opPha s)

/-- PHP (R251): `DummyRead(PC)`, then push P with bit 4 set. -/
def opPhp (s : State) : State := s.dummyFetch.push (s.flags.pack true)

/-- 0x08 PHP (R251). -/
def execPhp (s : State) : Result := .next (opPhp s)

/-- PLA (R252): `DummyRead(PC)`, raise S, then `A <- Read(0x0100 + S); SetNZ(A)`. -/
def opPla (s : State) : State :=
  let r := s.dummyFetch.raiseSp.readTop
  { r.2 with a := r.1, flags := r.2.flags.setNZ r.1 }

/-- 0x68 PLA (R252). -/
def execPla (s : State) : Result := .next (opPla s)

/-- PLP (R253): the bus sequence of PLA, then `SetP(v)`. -/
def opPlp (s : State) : State :=
  let r := s.dummyFetch.raiseSp.readTop
  { r.2 with flags := Flags.unpack r.1 }

/-- 0x28 PLP (R253). -/
def execPlp (s : State) : Result := .next (opPlp s)

end Sys2Proof.Machine
end

