-- ==== Sys2Proof/Machine/System.lean ====
section
/-! DEFINITION. Flag instructions, NOP, BRK and RTI (46_flags_system.md). -/

namespace Sys2Proof.Machine

/-- CLC (R350): `DummyRead(PC); C <- 0`. -/
def opClc (s : State) : State :=
  let s := s.dummyFetch
  { s with flags := { s.flags with c := false } }

/-- 0x18 CLC (R350). -/
def execClc (s : State) : Result := .next (opClc s)

/-- SEC (R351): `DummyRead(PC); C <- 1`. -/
def opSec (s : State) : State :=
  let s := s.dummyFetch
  { s with flags := { s.flags with c := true } }

/-- 0x38 SEC (R351). -/
def execSec (s : State) : Result := .next (opSec s)

/-- CLI (R352): `DummyRead(PC); I <- 0`. -/
def opCli (s : State) : State :=
  let s := s.dummyFetch
  { s with flags := { s.flags with i := false } }

/-- 0x58 CLI (R352). -/
def execCli (s : State) : Result := .next (opCli s)

/-- SEI (R353): `DummyRead(PC); I <- 1`. -/
def opSei (s : State) : State :=
  let s := s.dummyFetch
  { s with flags := { s.flags with i := true } }

/-- 0x78 SEI (R353). -/
def execSei (s : State) : Result := .next (opSei s)

/-- CLD (R354): `DummyRead(PC); D <- 0`. -/
def opCld (s : State) : State :=
  let s := s.dummyFetch
  { s with flags := { s.flags with d := false } }

/-- 0xD8 CLD (R354). -/
def execCld (s : State) : Result := .next (opCld s)

/-- SED (R355): `DummyRead(PC); D <- 1`. -/
def opSed (s : State) : State :=
  let s := s.dummyFetch
  { s with flags := { s.flags with d := true } }

/-- 0xF8 SED (R355). -/
def execSed (s : State) : Result := .next (opSed s)

/-- CLV (R356): `DummyRead(PC); V <- 0`. -/
def opClv (s : State) : State :=
  let s := s.dummyFetch
  { s with flags := { s.flags with v := false } }

/-- 0xB8 CLV (R356). -/
def execClv (s : State) : Result := .next (opClv s)

/-- 0xEA NOP (R357). -/
def execNop (s : State) : Result := .next (s.dummyFetch)

/-- 0x00 BRK (R360; the signature byte is ignored). -/
def execBrk (_sig : Byte) (s : State) : Result := .next (s.takeException .brk)

/-- 0x40 RTI (R361). -/
def execRti (s : State) : Result := .next (s.dummyFetch.returnFromException)

end Sys2Proof.Machine
end

