-- ==== Sys2Proof/Machine/Unofficial.lean ====
section
/-! DEFINITION. The admitted unofficial opcodes (47_unofficial.md). -/

namespace Sys2Proof.Machine

/-- The unofficial NOPs with an operand (R380): the operand is read and dropped. -/
def opNop (o : Operand) (s : State) : State := { s with bus := (readOperand o s).2 }

/-- 0x04 NOP zp (R380). -/
def execNop04Zp (z : Byte) (s : State) : Result := .next (opNop (.mem (.zp z)) s)

/-- 0x0C NOP abs (R380). -/
def execNop0CAbs (a : Addr) (s : State) : Result := .next (opNop (.mem (.abs a)) s)

/-- 0x14 NOP zp,X (R380). -/
def execNop14ZpX (z : Byte) (s : State) : Result := .next (opNop (.mem (.zpX z)) s)

/-- 0x1A NOP (R380). -/
def execNop1A (s : State) : Result := .next (s.dummyFetch)

/-- 0x1C NOP abs,X (R380). -/
def execNop1CAbsX (a : Addr) (s : State) : Result := .next (opNop (.mem (.absX a)) s)

/-- 0x34 NOP zp,X (R380). -/
def execNop34ZpX (z : Byte) (s : State) : Result := .next (opNop (.mem (.zpX z)) s)

/-- 0x3A NOP (R380). -/
def execNop3A (s : State) : Result := .next (s.dummyFetch)

/-- 0x3C NOP abs,X (R380). -/
def execNop3CAbsX (a : Addr) (s : State) : Result := .next (opNop (.mem (.absX a)) s)

/-- 0x44 NOP zp (R380). -/
def execNop44Zp (z : Byte) (s : State) : Result := .next (opNop (.mem (.zp z)) s)

/-- 0x54 NOP zp,X (R380). -/
def execNop54ZpX (z : Byte) (s : State) : Result := .next (opNop (.mem (.zpX z)) s)

/-- 0x5A NOP (R380). -/
def execNop5A (s : State) : Result := .next (s.dummyFetch)

/-- 0x5C NOP abs,X (R380). -/
def execNop5CAbsX (a : Addr) (s : State) : Result := .next (opNop (.mem (.absX a)) s)

/-- 0x64 NOP zp (R380). -/
def execNop64Zp (z : Byte) (s : State) : Result := .next (opNop (.mem (.zp z)) s)

/-- 0x74 NOP zp,X (R380). -/
def execNop74ZpX (z : Byte) (s : State) : Result := .next (opNop (.mem (.zpX z)) s)

/-- 0x7A NOP (R380). -/
def execNop7A (s : State) : Result := .next (s.dummyFetch)

/-- 0x7C NOP abs,X (R380). -/
def execNop7CAbsX (a : Addr) (s : State) : Result := .next (opNop (.mem (.absX a)) s)

/-- 0x80 NOP # (R380). -/
def execNop80Imm (m : Byte) (s : State) : Result := .next (opNop (.imm m) s)

/-- 0x82 NOP # (R380). -/
def execNop82Imm (m : Byte) (s : State) : Result := .next (opNop (.imm m) s)

/-- 0x89 NOP # (R380). -/
def execNop89Imm (m : Byte) (s : State) : Result := .next (opNop (.imm m) s)

/-- 0xC2 NOP # (R380). -/
def execNopC2Imm (m : Byte) (s : State) : Result := .next (opNop (.imm m) s)

/-- 0xD4 NOP zp,X (R380). -/
def execNopD4ZpX (z : Byte) (s : State) : Result := .next (opNop (.mem (.zpX z)) s)

/-- 0xDA NOP (R380). -/
def execNopDA (s : State) : Result := .next (s.dummyFetch)

/-- 0xDC NOP abs,X (R380). -/
def execNopDCAbsX (a : Addr) (s : State) : Result := .next (opNop (.mem (.absX a)) s)

/-- 0xE2 NOP # (R380). -/
def execNopE2Imm (m : Byte) (s : State) : Result := .next (opNop (.imm m) s)

/-- 0xF4 NOP zp,X (R380). -/
def execNopF4ZpX (z : Byte) (s : State) : Result := .next (opNop (.mem (.zpX z)) s)

/-- 0xFA NOP (R380). -/
def execNopFA (s : State) : Result := .next (s.dummyFetch)

/-- 0xFC NOP abs,X (R380). -/
def execNopFCAbsX (a : Addr) (s : State) : Result := .next (opNop (.mem (.absX a)) s)

/-- LAX (R381): `m <- Operand(); A <- m; X <- m; SetNZ(m)`. -/
def opLax (o : Operand) (s : State) : State :=
  let r := readOperand o s
  { s with bus := r.2, a := r.1, x := r.1, flags := s.flags.setNZ r.1 }

/-- 0xA3 LAX (zp,X) (R381). -/
def execLaxIndX (z : Byte) (s : State) : Result := .next (opLax (.mem (.indX z)) s)

/-- 0xA7 LAX zp (R381). -/
def execLaxZp (z : Byte) (s : State) : Result := .next (opLax (.mem (.zp z)) s)

/-- 0xAF LAX abs (R381). -/
def execLaxAbs (a : Addr) (s : State) : Result := .next (opLax (.mem (.abs a)) s)

/-- 0xB3 LAX (zp),Y (R381). -/
def execLaxIndY (z : Byte) (s : State) : Result := .next (opLax (.mem (.indY z)) s)

/-- 0xB7 LAX zp,Y (R381). -/
def execLaxZpY (z : Byte) (s : State) : Result := .next (opLax (.mem (.zpY z)) s)

/-- 0xBF LAX abs,Y (R381). -/
def execLaxAbsY (a : Addr) (s : State) : Result := .next (opLax (.mem (.absY a)) s)

/-- SAX (R382): `Store(A & X)`. -/
def opSax (e : EaMode) (s : State) : State := { s with bus := storeOperand e (s.a &&& s.x) s }

/-- 0x83 SAX (zp,X) (R382). -/
def execSaxIndX (z : Byte) (s : State) : Result := .next (opSax (.indX z) s)

/-- 0x87 SAX zp (R382). -/
def execSaxZp (z : Byte) (s : State) : Result := .next (opSax (.zp z) s)

/-- 0x8F SAX abs (R382). -/
def execSaxAbs (a : Addr) (s : State) : Result := .next (opSax (.abs a) s)

/-- 0x97 SAX zp,Y (R382). -/
def execSaxZpY (z : Byte) (s : State) : Result := .next (opSax (.zpY z) s)

/-- SLO (R383): C from the shift; N and Z from the new A. -/
def opSlo (e : EaMode) (s : State) : State :=
  let r := modifyOperand e (fun m => shiftLeft m s.flags) s
  let v := s.a ||| r.1.value
  { s with bus := r.2, a := v, flags := r.1.flags.setNZ v }

/-- 0x03 SLO (zp,X) (R383). -/
def execSloIndX (z : Byte) (s : State) : Result := .next (opSlo (.indX z) s)

/-- 0x07 SLO zp (R383). -/
def execSloZp (z : Byte) (s : State) : Result := .next (opSlo (.zp z) s)

/-- 0x0F SLO abs (R383). -/
def execSloAbs (a : Addr) (s : State) : Result := .next (opSlo (.abs a) s)

/-- 0x13 SLO (zp),Y (R383). -/
def execSloIndY (z : Byte) (s : State) : Result := .next (opSlo (.indY z) s)

/-- 0x17 SLO zp,X (R383). -/
def execSloZpX (z : Byte) (s : State) : Result := .next (opSlo (.zpX z) s)

/-- 0x1B SLO abs,Y (R383). -/
def execSloAbsY (a : Addr) (s : State) : Result := .next (opSlo (.absY a) s)

/-- 0x1F SLO abs,X (R383). -/
def execSloAbsX (a : Addr) (s : State) : Result := .next (opSlo (.absX a) s)

/-- RLA (R384): C from the rotate; N and Z from the new A. -/
def opRla (e : EaMode) (s : State) : State :=
  let r := modifyOperand e (fun m => rotateLeft m s.flags) s
  let v := s.a &&& r.1.value
  { s with bus := r.2, a := v, flags := r.1.flags.setNZ v }

/-- 0x23 RLA (zp,X) (R384). -/
def execRlaIndX (z : Byte) (s : State) : Result := .next (opRla (.indX z) s)

/-- 0x27 RLA zp (R384). -/
def execRlaZp (z : Byte) (s : State) : Result := .next (opRla (.zp z) s)

/-- 0x2F RLA abs (R384). -/
def execRlaAbs (a : Addr) (s : State) : Result := .next (opRla (.abs a) s)

/-- 0x33 RLA (zp),Y (R384). -/
def execRlaIndY (z : Byte) (s : State) : Result := .next (opRla (.indY z) s)

/-- 0x37 RLA zp,X (R384). -/
def execRlaZpX (z : Byte) (s : State) : Result := .next (opRla (.zpX z) s)

/-- 0x3B RLA abs,Y (R384). -/
def execRlaAbsY (a : Addr) (s : State) : Result := .next (opRla (.absY a) s)

/-- 0x3F RLA abs,X (R384). -/
def execRlaAbsX (a : Addr) (s : State) : Result := .next (opRla (.absX a) s)

/-- SRE (R385): C from the shift; N and Z from the new A. -/
def opSre (e : EaMode) (s : State) : State :=
  let r := modifyOperand e (fun m => shiftRight m s.flags) s
  let v := s.a ^^^ r.1.value
  { s with bus := r.2, a := v, flags := r.1.flags.setNZ v }

/-- 0x43 SRE (zp,X) (R385). -/
def execSreIndX (z : Byte) (s : State) : Result := .next (opSre (.indX z) s)

/-- 0x47 SRE zp (R385). -/
def execSreZp (z : Byte) (s : State) : Result := .next (opSre (.zp z) s)

/-- 0x4F SRE abs (R385). -/
def execSreAbs (a : Addr) (s : State) : Result := .next (opSre (.abs a) s)

/-- 0x53 SRE (zp),Y (R385). -/
def execSreIndY (z : Byte) (s : State) : Result := .next (opSre (.indY z) s)

/-- 0x57 SRE zp,X (R385). -/
def execSreZpX (z : Byte) (s : State) : Result := .next (opSre (.zpX z) s)

/-- 0x5B SRE abs,Y (R385). -/
def execSreAbsY (a : Addr) (s : State) : Result := .next (opSre (.absY a) s)

/-- 0x5F SRE abs,X (R385). -/
def execSreAbsX (a : Addr) (s : State) : Result := .next (opSre (.absX a) s)

/-- RRA (R386): the rotate, then ADC of its result with the carry it left. -/
def opRra (e : EaMode) (s : State) : State :=
  let r := modifyOperand e (fun m => rotateRight m s.flags) s
  let q := adc s.a r.1.value r.1.flags
  { s with bus := r.2, a := q.value, flags := q.flags }

/-- 0x63 RRA (zp,X) (R386). -/
def execRraIndX (z : Byte) (s : State) : Result := .next (opRra (.indX z) s)

/-- 0x67 RRA zp (R386). -/
def execRraZp (z : Byte) (s : State) : Result := .next (opRra (.zp z) s)

/-- 0x6F RRA abs (R386). -/
def execRraAbs (a : Addr) (s : State) : Result := .next (opRra (.abs a) s)

/-- 0x73 RRA (zp),Y (R386). -/
def execRraIndY (z : Byte) (s : State) : Result := .next (opRra (.indY z) s)

/-- 0x77 RRA zp,X (R386). -/
def execRraZpX (z : Byte) (s : State) : Result := .next (opRra (.zpX z) s)

/-- 0x7B RRA abs,Y (R386). -/
def execRraAbsY (a : Addr) (s : State) : Result := .next (opRra (.absY a) s)

/-- 0x7F RRA abs,X (R386). -/
def execRraAbsX (a : Addr) (s : State) : Result := .next (opRra (.absX a) s)

/-- 0xEB SBC # (R387). -/
def execSbcEBImm (m : Byte) (s : State) : Result := .next (opSbc (.imm m) s)

/-- DCP (R388): the decrement, then CMP of A with its result. -/
def opDcp (e : EaMode) (s : State) : State :=
  let r := modifyOperand e (fun m => decrement m s.flags) s
  { s with bus := r.2, flags := compareFlags s.a r.1.value s.flags }

/-- 0xC3 DCP (zp,X) (R388). -/
def execDcpIndX (z : Byte) (s : State) : Result := .next (opDcp (.indX z) s)

/-- 0xC7 DCP zp (R388). -/
def execDcpZp (z : Byte) (s : State) : Result := .next (opDcp (.zp z) s)

/-- 0xCF DCP abs (R388). -/
def execDcpAbs (a : Addr) (s : State) : Result := .next (opDcp (.abs a) s)

/-- 0xD3 DCP (zp),Y (R388). -/
def execDcpIndY (z : Byte) (s : State) : Result := .next (opDcp (.indY z) s)

/-- 0xD7 DCP zp,X (R388). -/
def execDcpZpX (z : Byte) (s : State) : Result := .next (opDcp (.zpX z) s)

/-- 0xDB DCP abs,Y (R388). -/
def execDcpAbsY (a : Addr) (s : State) : Result := .next (opDcp (.absY a) s)

/-- 0xDF DCP abs,X (R388). -/
def execDcpAbsX (a : Addr) (s : State) : Result := .next (opDcp (.absX a) s)

/-- ISB (R389): the increment, then SBC of its result. -/
def opIsb (e : EaMode) (s : State) : State :=
  let r := modifyOperand e (fun m => increment m s.flags) s
  let q := sbc s.a r.1.value s.flags
  { s with bus := r.2, a := q.value, flags := q.flags }

/-- 0xE3 ISB (zp,X) (R389). -/
def execIsbIndX (z : Byte) (s : State) : Result := .next (opIsb (.indX z) s)

/-- 0xE7 ISB zp (R389). -/
def execIsbZp (z : Byte) (s : State) : Result := .next (opIsb (.zp z) s)

/-- 0xEF ISB abs (R389). -/
def execIsbAbs (a : Addr) (s : State) : Result := .next (opIsb (.abs a) s)

/-- 0xF3 ISB (zp),Y (R389). -/
def execIsbIndY (z : Byte) (s : State) : Result := .next (opIsb (.indY z) s)

/-- 0xF7 ISB zp,X (R389). -/
def execIsbZpX (z : Byte) (s : State) : Result := .next (opIsb (.zpX z) s)

/-- 0xFB ISB abs,Y (R389). -/
def execIsbAbsY (a : Addr) (s : State) : Result := .next (opIsb (.absY a) s)

/-- 0xFF ISB abs,X (R389). -/
def execIsbAbsX (a : Addr) (s : State) : Result := .next (opIsb (.absX a) s)

end Sys2Proof.Machine
end

