-- ==== Sys2Proof/Machine/Dma.lean ====
section
/-! DEFINITION. The two DMA units (20_memory.md R94 to R97), which run at the end of a step. -/

namespace Sys2Proof.Machine

/-- Idle cycles (R95): the platform is ticked, the NMI sampled, `cycles` grows; no handler is dispatched. -/
def Bus.idle : Nat → Bus → Bus
  | 0, b => b
  | n + 1, b => Bus.idle n b.tick

/-- The alignment cycles of an OAM DMA, `oam_dma_stall - 512` (R95): by default 1 when `cycles` is even at the start, 2 when it
is odd (log 25). -/
def Bus.oamAlign (b : Bus) : Nat := if b.cycles % 2 = 0 then b.params.oamAlignEven else b.params.oamAlignOdd

/-- OAMDATA. -/
def oamDataAddr : Addr := 0x2004

/-- The transfers of an OAM DMA that are left, `n` of them, up to offset 255 (R95): `b <- Read(concat(v, i)); Write(0x2004, b)`. -/
def Bus.oamCopy (page : Byte) : Nat → Bus → Bus
  | 0, b => b
  | n + 1, b =>
    let r := b.read (concat page (BitVec.ofNat 8 (255 - n)))
    Bus.oamCopy page n (r.2.write oamDataAddr r.1)

/-- The OAM DMA of a page (R95, R96): the alignment cycles, then 256 transfers. -/
def Bus.oamDma (b : Bus) (page : Byte) : Bus :=
  let c := Bus.oamCopy page 256 (Bus.idle b.oamAlign b)
  { c with dma := { c.dma with oam := none } }

/-- The DMC fetch of an address (R97): `dmc_stall - 1` idle cycles (by default 3, log 25), the read, and the byte delivered to the APU. -/
def Bus.dmcDma (b : Bus) (a : Addr) : Bus :=
  let r := (Bus.idle b.params.dmcIdle b).read a
  { r.2 with apu := { r.2.apu with sampleByte := r.1 }, dma := { r.2.dma with dmc := none } }

/-- The OAM part of `ServiceDMA()`. -/
def Bus.serviceOam (b : Bus) : Bus :=
  match b.dma.oam with
  | some page => b.oamDma page
  | none => b

/-- The DMC part of `ServiceDMA()`. -/
def Bus.serviceDmc (b : Bus) : Bus :=
  match b.dma.dmc with
  | some a => b.dmcDma a
  | none => b

/-- `ServiceDMA()` (40_addressing_modes.md R180): the OAM DMA first (R97). -/
def State.serviceDma (s : State) : State := { s with bus := s.bus.serviceOam.serviceDmc }

/-- The end of a step that ran an instruction: the DMA it triggered, but none after IllegalOpcode (60_exceptions.md R420). -/
def finishInstr (r : Result) : Result :=
  match r with
  | .next s => if s.fatal.isSome then .next s else .next s.serviceDma
  | .fault f => .fault f
  | .refused q => .refused q

end Sys2Proof.Machine
end

