-- ==== Sys2Proof/Machine/Inputs.lean ====
section
/-! DEFINITION. What the outside of the CPU does at an instruction boundary (log 5). -/

namespace Sys2Proof.Machine

/-- The frame sequencer's last step raises its flag in the 4-step mode, 0x4017 bit 7 clear, unless bit 6 inhibits it
(60_exceptions.md R429(1), 20_memory.md R87). -/
def Apu.frameLastStep (p : Apu) : Apu :=
  { p with frameIrq := p.frameIrq || (!(p.reg 0x17).getLsbD 7 && !(p.reg 0x17).getLsbD 6) }

/-- Sample-buffer exhaustion raises the DMC flag if bit 7 of 0x4010 enables it (R429(2)). -/
def Apu.dmcExhausted (p : Apu) : Apu := { p with dmcIrq := p.dmcIrq || (p.reg 0x10).getLsbD 7 }

/-- One event. -/
def State.applyEvent (s : State) (e : PlatformEvent) : State :=
  match e with
  | .reset => { s with resetPending := true }
  | .buttons1 v => { s with bus := { s.bus with pad1 := { s.bus.pad1 with buttons := v } } }
  | .buttons2 v => { s with bus := { s.bus with pad2 := { s.bus.pad2 with buttons := v } } }
  | .frameLastStep => { s with bus := { s.bus with apu := s.bus.apu.frameLastStep } }
  | .dmcExhausted => { s with bus := { s.bus with apu := s.bus.apu.dmcExhausted } }
  | .dmcFetch a => { s with bus := { s.bus with dma := { s.bus.dma with dmc := some a } } }
  | .mapperIrq l => { s with bus := { s.bus with cart := { s.bus.cart with map := { s.bus.cart.map with irq := l } } } }
  | .spriteZeroHit => { s with bus := { s.bus with ppu := { s.bus.ppu with spriteZero := true } } }
  | .spriteOverflow => { s with bus := { s.bus with ppu := { s.bus.ppu with spriteOverflow := true } } }

/-- The next group of events, in order, if there is one (log 5). -/
def State.takeInputs (s : State) : State :=
  match s.inputs with
  | [] => s
  | g :: rest => g.foldl State.applyEvent { s with inputs := rest }

end Sys2Proof.Machine
end

