-- ==== Sys2Proof/Machine/Step.lean ====
section
/-! DEFINITION. One step (40_addressing_modes.md R180, 00_scope.md R22) and where the host places an instruction. -/

namespace Sys2Proof.Machine

/-- `step()` (R180): a fatal machine returns its error; else the inputs land, the boundary is polled, and a reset sequence, an
interrupt entry or one instruction runs, followed by the DMA it triggered. -/
def step (s : State) : Host.Outcome State Fault Refusal :=
  match s.fatal with
  | some e => .fault (.illegalOpcode e.op e.addr)
  | none =>
    let s := s.takeInputs
    match s.poll with
    | .reset => .next s.resetSequence.serviceDma
    | .nmi => .next (s.interruptEntry .nmi).serviceDma
    | .irq => .next (s.interruptEntry .irq).serviceDma
    | .instruction =>
      let f := s.fetchInstr
      finishInstr (exec f.1 f.2)

/-- The machine with one instruction stored where the next step fetches it, and nothing in the way of running it (log 23). -/
def State.withFetchWord (s : State) (nbits w : Nat) : State :=
  match wordBytes nbits w with
  | [b0, b1, b2] => s.placeAtPc b0 b1 b2
  | _ => s

end Sys2Proof.Machine
end

