-- ==== Sys2Proof/WellFormed.lean ====
section
/-! DEFINITION. Well-formed instructions: the admitted ones (00_scope.md R12). Operand widths are carried by the types, so
this is the only check. -/

namespace Sys2Proof

/-- The 12 JAM opcodes and the 13 others that R150 refuses. -/
def refusedOpcodes : List Byte :=
  [0x02, 0x12, 0x22, 0x32, 0x42, 0x52, 0x62, 0x72, 0x92, 0xB2, 0xD2, 0xF2] ++
  [0x0B, 0x2B, 0x4B, 0x6B, 0x8B, 0xAB, 0xCB, 0x93, 0x9F, 0x9C, 0x9E, 0x9B, 0xBB]

/-- The parameter `admitted` at its default (R12, R149): every opcode but the refused 25 (log 25). -/
def admitted (op : Byte) : Bool := !refusedOpcodes.contains op

/-- The check an instruction must pass to have a meaning of its own (R12): its opcode is admitted. -/
def Instr.wellFormed (i : Instr) : Bool := admitted i.opcode

end Sys2Proof
end

