-- ==== Sys2Proof/Safety.lean ====
section
/-! DEFINITION. What a caller of `step()` gets, and what counts as a safe run: one that never becomes fatal
(60_exceptions.md R420, R422). -/

namespace Sys2Proof.Machine

/-- What `step()` returns (00_scope.md R22): the cycles elapsed, or the fatal error. -/
inductive StepReturn where
  | cycles (n : Nat)
  | illegalOpcode (op : Byte) (addr : Addr)
deriving DecidableEq, Repr

/-- What `step()` returns at a state: `none` only for a refusal, which no instruction answers with. -/
def stepReturn (s : State) : Option StepReturn :=
  match step s with
  | .next t =>
    match t.fatal with
    | some e => some (.illegalOpcode e.op e.addr)
    | none => some (.cycles (t.bus.cycles - s.bus.cycles))
  | .fault (.illegalOpcode op addr) => some (.illegalOpcode op addr)
  | .refused _ => none

/-- A machine that is running: not fatal (R445). -/
def State.running (s : State) : Bool := s.fatal.isNone

/-- A run of `n` steps is safe: each step answers a machine that is still running. -/
def safeRun : Nat → State → Bool
  | 0, s => s.running
  | n + 1, s =>
    match step s with
    | .next t => s.running && safeRun n t
    | .fault _ => false
    | .refused _ => false

/-! ### The terms of a frame -/

/-- A register that was not written: it is as it was, or what was deferred has been applied (60_exceptions.md R452). -/
def Latched.Rests {α : Type} (r r' : Latched α) : Prop := r' = r ∨ r' = r.settle

/-- What is not deferred has been applied (R452). -/
def Latched.Applied {α : Type} (r : Latched α) : Prop := r.held = false → r.inForce = r.written

/-- Does storage at an address stay as it is while nothing is written: is it RAM, or is the mapper one that changes its banks by
`cpu_write` only? -/
def Bus.still (b : Bus) (a : Addr) : Bool := b.region a == .ram || b.cart.quiet

/-- Is a byte written to an address kept and read back there: is it RAM, or PRG RAM where no bank-select register answers? -/
def Bus.writable (b : Bus) (a : Addr) : Bool :=
  match b.region a with
  | .ram => true
  | .cart =>
    match b.cart.target a with
    | some (.ram _) => !b.cart.selects a
    | some (.rom _) => false
    | none => false
  | .ppu => false
  | .io => false
  | .disabled => false

/-- Do reads of consecutive addresses, one bus cycle each, return these bytes? -/
def Bus.readsAs (b : Bus) (a : Addr) : List Byte → Prop
  | [] => True
  | v :: vs => (b.read a).1 = v ∧ (b.read a).2.readsAs (a + 1) vs

/-- What a sequence of bus reads and idle cycles leaves alone: storage, the DMA requests, the cartridge (of a variant mapper, its
bytes), every register of a device that only a write changes, but that a deferred one may come into force (60_exceptions.md R452), and
a latched NMI; the frame IRQ can only be cleared, and time only passes. -/
structure Bus.Keeps (b b' : Bus) : Prop where
  params : b'.params = b.params
  mem : b'.mem = b.mem
  dma : b'.dma = b.dma
  info : b'.cart.info = b.cart.info
  mapper : b'.cart.mapper = b.cart.mapper
  rom : b'.cart.rom = b.cart.rom
  work : b'.cart.work = b.cart.work
  cart : b.cart.quiet = true → b'.cart = b.cart
  ctrl : b.ppu.ctrl.Rests b'.ppu.ctrl
  mask : b.ppu.mask.Rests b'.ppu.mask
  oamAddr : b'.ppu.oamAddr = b.ppu.oamAddr
  scrollX : b.ppu.scrollX.Rests b'.ppu.scrollX
  scrollY : b.ppu.scrollY.Rests b'.ppu.scrollY
  addrFirst : b'.ppu.addrFirst = b.ppu.addrFirst
  oam : b'.ppu.oam = b.ppu.oam
  regs : b'.apu.regs = b.apu.regs
  dmcIrq : b'.apu.dmcIrq = b.apu.dmcIrq
  sampleByte : b'.apu.sampleByte = b.apu.sampleByte
  buttons1 : b'.pad1.buttons = b.pad1.buttons
  buttons2 : b'.pad2.buttons = b.pad2.buttons
  frameIrq : b'.apu.frameIrq = true → b.apu.frameIrq = true
  nmiPending : b.nmiPending = true → b'.nmiPending = true
  cycles : b.cycles ≤ b'.cycles

/-- Can no write to the addresses of `w` change which byte of the cartridge an address reads as? -/
def Bus.banksStay (b : Bus) (w : List Addr) : Prop :=
  b.cart.quiet = true ∧ ∀ e ∈ w, b.region e = .cart → b.cart.selects e = false

/-- What bus cycles that write to the addresses of `w` and to no other leave alone: every byte of internal RAM that none of them
names, and of the cartridge too where none of them can change a bank; PRG ROM; PRG RAM where none of them is in the cartridge
window; a latched NMI; and where none of them is a device register, the DMA requests and the devices' registers, but that a
deferred one may come into force (R452). -/
structure Bus.StoresOnly (w : List Addr) (b b' : Bus) : Prop where
  params : b'.params = b.params
  storage : ∀ a, (∀ e ∈ w, b.sameCell a e = false) → (b.region a = .ram ∨ b.banksStay w) → b'.storage a = b.storage a
  info : b'.cart.info = b.cart.info
  mapper : b'.cart.mapper = b.cart.mapper
  rom : b'.cart.rom = b.cart.rom
  work : (∀ e ∈ w, b.region e ≠ .cart) → b'.cart.work = b.cart.work
  map : b.banksStay w → b'.cart.map = b.cart.map
  sampleByte : b'.apu.sampleByte = b.apu.sampleByte
  buttons1 : b'.pad1.buttons = b.pad1.buttons
  buttons2 : b'.pad2.buttons = b.pad2.buttons
  nmiPending : b.nmiPending = true → b'.nmiPending = true
  cycles : b.cycles ≤ b'.cycles
  devices : (∀ e ∈ w, b.region e ≠ .ppu ∧ b.region e ≠ .io) →
    b'.dma = b.dma ∧ b.ppu.ctrl.Rests b'.ppu.ctrl ∧ b.ppu.mask.Rests b'.ppu.mask ∧ b'.ppu.oamAddr = b.ppu.oamAddr ∧
    b.ppu.scrollX.Rests b'.ppu.scrollX ∧ b.ppu.scrollY.Rests b'.ppu.scrollY ∧ b'.ppu.addrFirst = b.ppu.addrFirst ∧
    b'.ppu.oam = b.ppu.oam ∧ b'.apu.regs = b.apu.regs ∧ b'.apu.dmcIrq = b.apu.dmcIrq

/-- The byte an RMW-class instruction reads (40_addressing_modes.md R181). -/
def rmwByte (e : EaMode) (s : State) : Byte := ((resolve .rmw e s).2.read (resolve .rmw e s).1).1

/-- The bus after an RMW-class instruction that writes `r`: the read, the unmodified byte written back, the result (R181). -/
def rmwBus (e : EaMode) (r : Byte) (s : State) : Bus :=
  (((resolve .rmw e s).2.read (resolve .rmw e s).1).2.write (resolve .rmw e s).1 (rmwByte e s)).write (resolve .rmw e s).1 r

/-! ### The terms of a cycle count (40_addressing_modes.md R194, R195, 70_reset_and_hazards.md R540, R541) -/

/-- The base cycle count of every opcode (spec/opcode_table.json, `cycles`), sixteen opcodes a row. -/
def opcodeCycles : List (List Nat) :=
  [ [7, 6, 1, 8, 3, 3, 5, 5, 3, 2, 2, 1, 4, 4, 6, 6],
    [2, 5, 1, 8, 4, 4, 6, 6, 2, 4, 2, 7, 4, 4, 7, 7],
    [6, 6, 1, 8, 3, 3, 5, 5, 4, 2, 2, 1, 4, 4, 6, 6],
    [2, 5, 1, 8, 4, 4, 6, 6, 2, 4, 2, 7, 4, 4, 7, 7],
    [6, 6, 1, 8, 3, 3, 5, 5, 3, 2, 2, 1, 3, 4, 6, 6],
    [2, 5, 1, 8, 4, 4, 6, 6, 2, 4, 2, 7, 4, 4, 7, 7],
    [6, 6, 1, 8, 3, 3, 5, 5, 4, 2, 2, 1, 5, 4, 6, 6],
    [2, 5, 1, 8, 4, 4, 6, 6, 2, 4, 2, 7, 4, 4, 7, 7],
    [2, 6, 2, 6, 3, 3, 3, 3, 2, 2, 2, 1, 4, 4, 4, 4],
    [2, 6, 1, 1, 4, 4, 4, 4, 2, 5, 2, 1, 1, 5, 1, 1],
    [2, 6, 2, 6, 3, 3, 3, 3, 2, 2, 2, 1, 4, 4, 4, 4],
    [2, 5, 1, 5, 4, 4, 4, 4, 2, 4, 2, 1, 4, 4, 4, 4],
    [2, 6, 2, 8, 3, 3, 5, 5, 2, 2, 2, 1, 4, 4, 6, 6],
    [2, 5, 1, 8, 4, 4, 6, 6, 2, 4, 2, 7, 4, 4, 7, 7],
    [2, 6, 2, 8, 3, 3, 5, 5, 2, 2, 2, 2, 4, 4, 6, 6],
    [2, 5, 1, 8, 4, 4, 6, 6, 2, 4, 2, 7, 4, 4, 7, 7] ]

/-- The base cycle count of an instruction. -/
def baseCycles (i : Instr) : Nat := (opcodeCycles.getD (i.opcode.toNat / 16) []).getD (i.opcode.toNat % 16) 0

/-- How many of its cycles `step` performs before `exec`: one for each byte fetched; JSR fetches its last byte itself (R332). -/
def fetchCycles (i : Instr) : Nat := if fetchesTargetLate i.opcode then 2 else i.length

/-- One more cycle if adding an index leaves the page of the base (R189, R194). -/
def crossCycle (base : Addr) (index : Byte) : Nat := if hi (base + index.setWidth 16) = hi base then 0 else 1

/-- The page-cross cycle of a Read-class operand (R194): abs,X, abs,Y and (zp),Y have one, no other form. -/
def operandCrossCycle (o : Operand) (s : State) : Nat :=
  match o with
  | .imm _ => 0
  | .mem (.zp _) => 0
  | .mem (.zpX _) => 0
  | .mem (.zpY _) => 0
  | .mem (.abs _) => 0
  | .mem (.absX a) => crossCycle a s.x
  | .mem (.absY a) => crossCycle a s.y
  | .mem (.indX _) => 0
  | .mem (.indY z) =>
    crossCycle (concat (Memory.byte s.bus.mem (z + 1).toNat) (Memory.byte s.bus.mem z.toNat)) s.y

/-- The condition of a branch (45_control_transfer.md R321 to R328). -/
def branchTaken (op : BranchOp) (f : Flags) : Bool :=
  match op with
  | .bpl => !f.n
  | .bmi => f.n
  | .bvc => !f.v
  | .bvs => f.v
  | .bcc => !f.c
  | .bcs => f.c
  | .bne => !f.z
  | .beq => f.z

/-- The cycles an instruction takes above its base count: the page-cross cycle of the Read class, and one or two of a taken
branch (R320); nothing else varies (70_reset_and_hazards.md R543). -/
def extraCycles (i : Instr) (s : State) : Nat :=
  match i.shape with
  | .read _ o => operandCrossCycle o s
  | .branch op d => if branchTaken op s.flags then (if hi (s.pc + sext8 d) = hi s.pc then 1 else 2) else 0
  | .write _ _ => 0
  | .rmw _ _ => 0
  | .acc _ => 0
  | .implied _ => 0
  | .jmpAbs _ => 0
  | .jmpInd _ => 0
  | .jsr _ => 0
  | .rts => 0
  | .pha => 0
  | .php => 0
  | .pla => 0
  | .plp => 0
  | .brk _ => 0
  | .rti => 0
  | .refused _ => 0

/-! ### The invariant -/

/-- What every bus cycle keeps: the five stores in canonical form and each with entries only where it has cells (20_memory.md
R83, R84, R87, R104), the raster on the screen (60_exceptions.md R451), what is written to PPUCTRL, PPUMASK and PPUSCROLL in force
unless it is deferred (R452), the NMI level sampled (R428), one APU clock for each CPU cycle (00_scope.md R13), and at most eight
button bits a port (R88). -/
structure Bus.Inv (b : Bus) : Prop where
  mem : Memory.wf b.mem = true
  cells : ∀ c ∈ b.mem, c.1 < ramCells b.params.platform
  rom : Memory.wf b.cart.rom = true
  romCells : ∀ c ∈ b.cart.rom, c.1 < b.cart.info.romSize
  work : Memory.wf b.cart.work = true
  workCells : ∀ c ∈ b.cart.work, c.1 < b.cart.info.ramSize
  oam : Memory.wf b.ppu.oam = true
  oamCells : ∀ c ∈ b.ppu.oam, c.1 < 256
  regs : Memory.wf b.apu.regs = true
  regCells : ∀ c ∈ b.apu.regs, c.1 < 0x18
  scanline : b.ppu.scanline ≤ 261
  dot : b.ppu.dot ≤ 340
  ctrl : b.ppu.ctrl.Applied
  mask : b.ppu.mask.Applied
  scrollX : b.ppu.scrollX.Applied
  scrollY : b.ppu.scrollY.Applied
  line : b.nmiLinePrev = b.nmiLevel
  clock : b.apu.clock = b.cycles
  shift1 : b.pad1.shift.length ≤ 8
  shift2 : b.pad2.shift.length ≤ 8

/-- What every step keeps: the bus's invariant; no DMA is left pending on a running machine (20_memory.md R96, R97); and a fatal
machine's opcode is one of the refused (60_exceptions.md R420). -/
structure State.Inv (s : State) : Prop where
  bus : s.bus.Inv
  dma : s.fatal = none → s.bus.dma = {}
  fatal : ∀ e, s.fatal = some e → e.op ∈ refusedOpcodes

end Sys2Proof.Machine
end

