-- ==== Sys2Proof/Certificates/Slice0/Obligations.lean ====
section
/-! DEFINITION. The statements for the provers. Statements about an instruction hold for every row whose shape they name; the
docstring lists the rows' constructors. -/

section

open Sys2Proof Sys2Proof.Machine

/-- Power-on: every CPU field at its parameter, and the defaults at reset (R48, R501, R14). It says nothing of the
devices' values, which are log 6, log 7, log 11 and log 19, nor of what `ram_init` or the cartridge is (log 1, log 2). -/
def Obligations.ResetStateIsPowerOnState : Prop :=
  (∀ p : PowerOn, (State.powerOn p).a = p.a ∧ (State.powerOn p).x = p.x ∧ (State.powerOn p).y = p.y ∧
    (State.powerOn p).sp = p.sp ∧ (State.powerOn p).pc = p.pc ∧ (State.powerOn p).flags = p.flags ∧
    (∀ a, regionOf p.params.platform a = .ram →
      (State.powerOn p).bus.storage a = some (Memory.byte p.mem (ramCell p.params.platform a))) ∧
    (State.powerOn p).bus.params = p.params ∧ (State.powerOn p).bus.cart = p.cart ∧
    (State.powerOn p).resetPending = true ∧ (State.powerOn p).fatal = none ∧
    (State.powerOn p).bus.nmiPending = false ∧ (State.powerOn p).bus.nmiLinePrev = false ∧
    (State.powerOn p).bus.cycles = 0 ∧ (State.powerOn p).bus.openBus = 0 ∧ (State.powerOn p).bus.dma = {}) ∧
  State.reset.a = 0 ∧ State.reset.x = 0 ∧ State.reset.y = 0 ∧ State.reset.sp = 0 ∧ State.reset.pc = 0 ∧
  State.reset.flags = { c := false, z := false, i := true, d := false, v := false, n := false } ∧
  State.reset.bus.params =
    { platform := .nes, oamAlignEven := 513 - 512, oamAlignOdd := 514 - 512, dmcIdle := 4 - 1, writeOnlyRead := .openBus } ∧
  State.reset = State.powerOn {}

/-- The reset state, and every power-on state with canonical stores, meets the machine's invariant (10_state.md section 5,
R83, R451). The invariant every step keeps holds at the start. Its conjuncts on the devices rest on the model's values
at power-on: vertical blank clear, so that the NMI level is nmi_line_prev, the PPU registers in force as written, and
the APU registers, on log 6 (PRESUMED); nothing deferred on log 28 (DESIGN CHOICE); the raster at (0, 0) and the count
of APU clocks on log 7 (DESIGN CHOICE); object memory on log 11 and the controllers' bits on log 19 (DESIGN CHOICE). -/
def Obligations.ResetStateMeetsInvariant : Prop :=
  State.reset.Inv ∧
  ∀ p : PowerOn, Memory.wf p.mem = true → (∀ c ∈ p.mem, c.1 < ramCells p.params.platform) →
    Memory.wf p.cart.rom = true → (∀ c ∈ p.cart.rom, c.1 < p.cart.info.romSize) →
    Memory.wf p.cart.work = true → (∀ c ∈ p.cart.work, c.1 < p.cart.info.ramSize) → (State.powerOn p).Inv

/-- Every step keeps the machine's invariant (R13, R83, R96, R97, R420, R428, R451, R452, R450). The invariant of
Safety.lean is kept by every step, whatever it does, whatever the inputs are, whatever a variant mapper answers and
whichever PPU writes are deferred (log 28). -/
def Obligations.StepKeepsInvariant : Prop :=
  ∀ s t : State, s.Inv → step s = .next t → t.Inv

/-- A step is a reset sequence, an interrupt entry or one instruction, in that priority (R22, R180, R432, R434). The step
of R180. That inputs land first is the model's choice (log 5). -/
def Obligations.StepTakesOneSequence : Prop :=
  ∀ s : State, s.fatal = none →
    let u := s.takeInputs
    (u.resetPending = true → step s = .next u.resetSequence.serviceDma) ∧
    (u.resetPending = false → u.bus.nmiPending = true → step s = .next (u.interruptEntry .nmi).serviceDma) ∧
    (u.resetPending = false → u.bus.nmiPending = false → u.bus.irqLine = true → u.flags.i = false →
      step s = .next (u.interruptEntry .irq).serviceDma) ∧
    (u.resetPending = false → u.bus.nmiPending = false → (u.bus.irqLine = false ∨ u.flags.i = true) →
      step s = finishInstr (exec u.fetchInstr.1 u.fetchInstr.2) ∧
      ∀ w, exec u.fetchInstr.1 u.fetchInstr.2 = .next w → step s = .next (if w.fatal.isSome then w else w.serviceDma))

/-- A step runs the instruction whose bytes stand at PC (R35, R140, R151, R180, R332). What a step does with the bytes at
PC: every statement about `exec` reaches a run through this one. The fetch cycles stand in `step` and not in `exec`,
and JSR's last byte is looked at with no cycle (log 22). -/
def Obligations.StepRunsDecodedInstruction : Prop :=
  (∀ (s : State) (i : Instr), s.fatal = none → s.takeInputs.poll = .instruction →
    s.takeInputs.bus.readsAs s.takeInputs.pc (encode i) →
    ∃ b : Bus, s.takeInputs.bus.Keeps b ∧ b.cycles = s.takeInputs.bus.cycles + fetchCycles i ∧
      fetchCycles i = (if i.opcode = 0x20 then 2 else i.length) ∧
      step s = finishInstr (exec i { s.takeInputs with bus := b, pc := s.takeInputs.pc + BitVec.ofNat 16 (fetchCycles i) })) ∧
  (∀ (b : Bus) (a : Addr) (l : List Byte),
    (∀ k, k < l.length → b.storage (a + BitVec.ofNat 16 k) = l[k]? ∧ b.still (a + BitVec.ofNat 16 k) = true) → b.readsAs a l)

/-- A fatal machine returns its error and does nothing else (R43, R180, R420, R503). A stop: each later step of a fatal
machine returns the same error (R420), whatever is pending (R503). -/
def Obligations.FatalMachineReturnsItsError : Prop :=
  ∀ (s : State) (e : IllegalOpcode), s.fatal = some e → step s = .fault (.illegalOpcode e.op e.addr)

/-- Fetching one of the 25 refused opcodes is IllegalOpcode, after one cycle, with nothing else changed (R150, R390, R420,
R434, R541). Constructors: jam02, anc0B, jam12, jam22, anc2B, jam32, jam42, alr, jam52, jam62, arr, jam72, xaa, jam92,
sha93, tas, shy, shx, sha9F, lxa, jamB2, las, sbx, jamD2, jamF2. That such a step, and `exec` of such a row, answers a
next state, and the later steps the error, is log 26 (DEDUCED); the effect is R420's. -/
def Obligations.RefusedOpcodeIsFatal : Prop :=
  (∀ (i : Instr) (op : Byte) (s : State), i.shape = .refused op →
    i.opcode = op ∧ op ∈ refusedOpcodes ∧ exec i s = .next { s with fatal := some { op := op, addr := s.pc - 1 } }) ∧
  (∀ (s : State) (op : Byte), s.fatal = none → s.takeInputs.poll = .instruction → op ∈ refusedOpcodes →
    (s.takeInputs.bus.read s.takeInputs.pc).1 = op →
    step s = .next { s.takeInputs with
      bus := (s.takeInputs.bus.read s.takeInputs.pc).2
      pc := s.takeInputs.pc + 1
      fatal := some { op := op, addr := s.takeInputs.pc } })

/-- Every instruction answers a next state; only the storing ones touch storage; a latched NMI stays latched (R40, R181,
R422, R428, R440). All 256 constructors. Nothing but IllegalOpcode is an error (R422); that `exec` of the 25 refused
rows answers a next state is log 26 (DEDUCED). -/
def Obligations.EveryInstructionCompletes : Prop :=
  ∀ (i : Instr) (s : State), ∃ t, exec i s = .next t ∧ t.inputs = s.inputs ∧ t.resetPending = s.resetPending ∧
    (i.wellFormed = true → t.fatal = s.fatal) ∧ (s.bus.nmiPending = true → t.bus.nmiPending = true) ∧
    ((∀ op e, i.shape ≠ .write op e) → (∀ op e, i.shape ≠ .rmw op e) → (∀ a, i.shape ≠ .jsr a) → i.shape ≠ .pha →
      i.shape ≠ .php → (∀ sig, i.shape ≠ .brk sig) → s.bus.Keeps t.bus)

/-- The reset sequence: 7 cycles, S drops by 3, I set, PC from 0xFFFC, nothing written (R89, R502, R503, R541). Both a
power-on and a reset signal end here (R500). The clauses about the devices, those of `Bus.Keeps` on the PPU, the APU,
the controllers and the mapper, are log 29 (DESIGN CHOICE): R503 leaves them to their blocks. The clause that gives
the bus after the seven cycles is the model's choice in two fields, which R48 and R503 list as unchanged by a reset:
that the reads drive open_bus is log 32 (DESIGN CHOICE), and that the cycles sample nmi_line_prev is log 33 (DESIGN
CHOICE). -/
def Obligations.ResetSequenceLoadsVector : Prop :=
  ∀ s : State, s.fatal = none → s.takeInputs.resetPending = true →
    ∃ t, step s = .next t ∧ t.a = s.takeInputs.a ∧ t.x = s.takeInputs.x ∧ t.y = s.takeInputs.y ∧
      t.sp = s.takeInputs.sp - 3 ∧ t.flags = { s.takeInputs.flags with i := true } ∧
      t.resetPending = false ∧ t.fatal = none ∧ t.inputs = s.takeInputs.inputs ∧
      t.bus.dma = {} ∧ ({ s.takeInputs.bus with nmiPending := false, dma := {} } : Bus).Keeps t.bus ∧
      (s.takeInputs.bus.ppu.ctrl.written.getLsbD 7 = false → t.bus.nmiPending = false) ∧
      t.bus.cycles = s.takeInputs.bus.cycles + 7 ∧
      (let u := s.takeInputs
       let b := ((((u.bus.dummyRead u.pc).dummyRead u.pc).dummyRead (stackAddr u.sp)).dummyRead (stackAddr (u.sp - 1))).dummyRead
         (stackAddr (u.sp - 2))
       let c : Bus := { b with nmiPending := false, dma := {} }
       t.bus = ((c.read 0xFFFC).2.read 0xFFFD).2 ∧ t.pc = concat ((c.read 0xFFFC).2.read 0xFFFD).1 (c.read 0xFFFC).1) ∧
      (let m := Memory.byte s.takeInputs.bus.mem (256 + (s.takeInputs.sp - 2).toNat)
       let l := (s.takeInputs.bus.storage 0xFFFC).getD m
       s.takeInputs.bus.still 0xFFFC = true → s.takeInputs.bus.still 0xFFFD = true →
         t.pc = concat ((s.takeInputs.bus.storage 0xFFFD).getD l) l)

/-- NMI and IRQ entry: 7 cycles, PC and P with B = 0 pushed, I set, PC from the vector (R38, R89, R433, R435, R541). The
two polled interrupts (R433). -/
def Obligations.InterruptEntryPushesAndVectors : Prop :=
  ∀ (k : Entry) (s : State), k ∈ [Entry.nmi, Entry.irq] →
    let t := s.interruptEntry k
    let v : Addr := if k = .nmi then 0xFFFA else 0xFFFE
    t.a = s.a ∧ t.x = s.x ∧ t.y = s.y ∧ t.sp = s.sp - 3 ∧ t.flags = { s.flags with i := true } ∧
    t.resetPending = s.resetPending ∧ t.fatal = s.fatal ∧ t.inputs = s.inputs ∧
    (t.bus.storage (stackAddr s.sp) = some (hi s.pc) ∧ t.bus.storage (stackAddr (s.sp - 1)) = some (lo s.pc) ∧
      t.bus.storage (stackAddr (s.sp - 2)) = some (s.flags.pack false)) ∧
    ({ s.bus with nmiPending := s.bus.nmiPending && k != .nmi } : Bus).StoresOnly
      [stackAddr s.sp, stackAddr (s.sp - 1), stackAddr (s.sp - 2)] t.bus ∧
    (k = .nmi → s.bus.ppu.ctrl.written.getLsbD 7 = false → t.bus.nmiPending = false) ∧
    t.bus.cycles = s.bus.cycles + 7 ∧
    (let b := ((((s.bus.dummyRead s.pc).dummyRead s.pc).write (stackAddr s.sp) (hi s.pc)).write (stackAddr (s.sp - 1))
       (lo s.pc)).write (stackAddr (s.sp - 2)) (s.flags.pack false)
     let c : Bus := { b with nmiPending := b.nmiPending && k != .nmi }
     t.bus = ((c.read v).2.read (v + 1)).2 ∧ t.pc = concat ((c.read v).2.read (v + 1)).1 (c.read v).1) ∧
    (let l := (s.bus.storage v).getD (s.flags.pack false)
     s.bus.still v = true → s.bus.still (v + 1) = true → t.pc = concat ((s.bus.storage (v + 1)).getD l) l)

/-- BRK: PC and P with B = 1 pushed, I set, PC from 0xFFFE (R38, R142, R360, R435, R541). Constructor: brk. `exec` starts
after the opcode and the signature byte (log 22). -/
def Obligations.BrkPushesAndVectors : Prop :=
  ∀ (sig : Byte) (s : State), encode (.brk sig) = [0x00, sig] ∧
    ∃ t, exec (.brk sig) s = .next t ∧
    t.a = s.a ∧ t.x = s.x ∧ t.y = s.y ∧ t.sp = s.sp - 3 ∧ t.flags = { s.flags with i := true } ∧
    t.resetPending = s.resetPending ∧ t.fatal = s.fatal ∧ t.inputs = s.inputs ∧
    (t.bus.storage (stackAddr s.sp) = some (hi s.pc) ∧ t.bus.storage (stackAddr (s.sp - 1)) = some (lo s.pc) ∧
      t.bus.storage (stackAddr (s.sp - 2)) = some (s.flags.pack true)) ∧
    s.bus.StoresOnly [stackAddr s.sp, stackAddr (s.sp - 1), stackAddr (s.sp - 2)] t.bus ∧
    t.bus.cycles = s.bus.cycles + 5 ∧
    (let b := ((s.bus.write (stackAddr s.sp) (hi s.pc)).write (stackAddr (s.sp - 1)) (lo s.pc)).write (stackAddr (s.sp - 2))
       (s.flags.pack true)
     t.bus = ((b.read 0xFFFE).2.read 0xFFFF).2 ∧ t.pc = concat ((b.read 0xFFFE).2.read 0xFFFF).1 (b.read 0xFFFE).1) ∧
    (let l := (s.bus.storage 0xFFFE).getD (s.flags.pack true)
     s.bus.still 0xFFFE = true → s.bus.still 0xFFFF = true → t.pc = concat ((s.bus.storage 0xFFFF).getD l) l)

/-- RTI pulls P and then PC (R38, R361, R436). Constructor: rti. -/
def Obligations.RtiRestoresFrame : Prop :=
  ∀ s : State, encode .rti = [0x40] ∧ ∃ b : Bus, s.bus.Keeps b ∧ b.cycles = s.bus.cycles + 5 ∧
    exec .rti s = .next { s with
      bus := b
      sp := s.sp + 3
      flags := Flags.unpack (Memory.byte s.bus.mem (256 + (s.sp + 1).toNat))
      pc := concat (Memory.byte s.bus.mem (256 + (s.sp + 3).toNat)) (Memory.byte s.bus.mem (256 + (s.sp + 2).toNat)) }

/-- RTI returns from NMI, IRQ and BRK to the interrupted PC, S and flags (R38, R433, R435, R436). The frame of R435,
pushed and pulled, for each of the three entries. -/
def Obligations.RtiUndoesEntry : Prop :=
  ∀ (k : Entry) (s u : State), u.sp = (s.takeException k).sp →
    (∀ j : Byte, j ∈ [s.sp, s.sp - 1, s.sp - 2] →
      u.bus.storage (stackAddr j) = (s.takeException k).bus.storage (stackAddr j)) →
    ∃ t, exec .rti u = .next t ∧ t.pc = s.pc ∧ t.sp = s.sp ∧ t.flags = s.flags ∧ t.a = u.a ∧ t.x = u.x ∧ t.y = u.y

/-- JSR pushes the address of its last byte and jumps (R34, R89, R332). Constructor: jsr. `exec` starts after the opcode
and the low byte (log 22). -/
def Obligations.JsrPushesReturnAddress : Prop :=
  ∀ (a : Addr) (s : State), encode (.jsr a) = [0x20, lo a, hi a] ∧
    let c := ((s.bus.dummyRead (stackAddr s.sp)).write (stackAddr s.sp) (hi s.pc)).write (stackAddr (s.sp - 1)) (lo s.pc)
    ∃ b p, exec (.jsr a) s = .next { s with bus := b, sp := s.sp - 2, pc := p } ∧
      b = (c.read s.pc).2 ∧ p = concat (c.read s.pc).1 (lo a) ∧
      b.storage (stackAddr s.sp) = some (hi s.pc) ∧ b.storage (stackAddr (s.sp - 1)) = some (lo s.pc) ∧
      s.bus.StoresOnly [stackAddr s.sp, stackAddr (s.sp - 1)] b ∧ b.cycles = s.bus.cycles + 4 ∧ lo p = lo a ∧
      (∀ h, s.bus.storage s.pc = some h → s.bus.still s.pc = true → s.bus.sameCell s.pc (stackAddr s.sp) = false →
        s.bus.sameCell s.pc (stackAddr (s.sp - 1)) = false → p = concat h (lo a)) ∧
      (s.bus.sameCell s.pc (stackAddr s.sp) = true → p = concat (hi s.pc) (lo a)) ∧
      (s.bus.sameCell s.pc (stackAddr (s.sp - 1)) = true → p = concat (lo s.pc) (lo a))

/-- RTS pulls an address and continues one byte past it (R34, R333). Constructor: rts. -/
def Obligations.RtsPullsReturnAddress : Prop :=
  ∀ s : State, encode .rts = [0x60] ∧ ∃ b : Bus, s.bus.Keeps b ∧ b.cycles = s.bus.cycles + 5 ∧
    exec .rts s = .next { s with
      bus := b
      sp := s.sp + 2
      pc := concat (Memory.byte s.bus.mem (256 + (s.sp + 2).toNat)) (Memory.byte s.bus.mem (256 + (s.sp + 1).toNat)) + 1 }

/-- RTS after a JSR continues at the JSR address + 3 (R332, R333). The return address of R332, pushed and pulled. -/
def Obligations.RtsUndoesJsr : Prop :=
  ∀ (a j : Addr) (s t u : State), s.pc = j + 2 → exec (.jsr a) s = .next t → u.sp = t.sp →
    u.bus.storage (stackAddr s.sp) = t.bus.storage (stackAddr s.sp) →
    u.bus.storage (stackAddr (s.sp - 1)) = t.bus.storage (stackAddr (s.sp - 1)) →
    ∃ v, exec .rts u = .next v ∧ v.pc = j + 3 ∧ v.sp = s.sp ∧ v.flags = u.flags

/-- The eight branches: condition, target, cycles, and no other effect than their dummy reads (R192, R320, R321, R322,
R323, R324, R325, R326, R327, R328). Constructors: bpl, bmi, bvc, bvs, bcc, bcs, bne, beq. PC is the address of the
next instruction. -/
def Obligations.BranchesTestTheirFlag : Prop :=
  ∀ (d : Byte) (s : State) (p : Instr × Bool),
    p ∈ [(.bpl d, !s.flags.n), (.bmi d, s.flags.n), (.bvc d, !s.flags.v), (.bvs d, s.flags.v),
         (.bcc d, !s.flags.c), (.bcs d, s.flags.c), (.bne d, !s.flags.z), (.beq d, s.flags.z)] →
    let t : Addr := BitVec.ofInt 16 (s.pc.toNat + d.toInt)
    let b : Bus :=
      if p.2 = true then
        if hi t = hi s.pc then s.bus.dummyRead s.pc else (s.bus.dummyRead s.pc).dummyRead (concat (hi s.pc) (lo t))
      else s.bus
    exec p.1 s = .next { s with bus := b, pc := if p.2 then t else s.pc } ∧ (p.2 = false → exec p.1 s = .next s) ∧
      s.bus.Keeps b ∧ b.cycles = s.bus.cycles + (if p.2 then (if hi t = hi s.pc then 1 else 2) else 0)

/-- JMP loads PC with its operand, or from a pointer that stays in its page (R193, R330, R331, R524). Constructors:
jmpAbs, jmpInd. -/
def Obligations.JumpsLoadPc : Prop :=
  ∀ (a : Addr) (s : State),
    encode (.jmpAbs a) = [0x4C, lo a, hi a] ∧ exec (.jmpAbs a) s = .next { s with pc := a } ∧
    encode (.jmpInd a) = [0x6C, lo a, hi a] ∧
    let q : Addr := BitVec.ofNat 16 (a.toNat / 256 * 256 + (a.toNat + 1) % 256)
    ∃ b p, s.bus.Keeps b ∧ b.cycles = s.bus.cycles + 2 ∧ exec (.jmpInd a) s = .next { s with bus := b, pc := p } ∧
      b = ((s.bus.read a).2.read q).2 ∧ p = concat ((s.bus.read a).2.read q).1 (s.bus.read a).1 ∧
      (∀ l h, s.bus.storage a = some l → s.bus.storage q = some h → s.bus.still q = true → p = concat h l)

/-- PHA and PHP write at 0x0100 + S and drop S by 1 (R250, R251). Constructors: pha, php. -/
def Obligations.PushesStoreAtStackPointer : Prop :=
  ∀ s : State, encode .pha = [0x48] ∧ encode .php = [0x08] ∧ baseCycles .pha = 3 ∧ baseCycles .php = 3 ∧
    (∃ b : Bus, exec .pha s = .next { s with bus := b, sp := s.sp - 1 } ∧
      b = (s.bus.dummyRead s.pc).write (BitVec.ofNat 16 (0x0100 + s.sp.toNat)) s.a ∧
      b.storage (BitVec.ofNat 16 (0x0100 + s.sp.toNat)) = some s.a ∧
      s.bus.StoresOnly [BitVec.ofNat 16 (0x0100 + s.sp.toNat)] b ∧ b.cycles = s.bus.cycles + 2) ∧
    (∃ b : Bus, exec .php s = .next { s with bus := b, sp := s.sp - 1 } ∧
      b = (s.bus.dummyRead s.pc).write (BitVec.ofNat 16 (0x0100 + s.sp.toNat)) (s.flags.pack true) ∧
      b.storage (BitVec.ofNat 16 (0x0100 + s.sp.toNat)) = some (s.flags.pack true) ∧
      (s.flags.pack true).getLsbD 5 = true ∧ (s.flags.pack true).getLsbD 4 = true ∧
      s.bus.StoresOnly [BitVec.ofNat 16 (0x0100 + s.sp.toNat)] b ∧ b.cycles = s.bus.cycles + 2)

/-- PLA and PLP read at 0x0100 + S + 1 and raise S by 1 (R38, R252, R253). Constructors: pla, plp. -/
def Obligations.PullsReadAboveStackPointer : Prop :=
  ∀ s : State, encode .pla = [0x68] ∧ encode .plp = [0x28] ∧
    let m := Memory.byte s.bus.mem (0x0100 + (s.sp + 1).toNat)
    (∃ b : Bus, s.bus.Keeps b ∧ b.cycles = s.bus.cycles + 3 ∧
      exec .pla s = .next { s with bus := b, sp := s.sp + 1, a := m, flags := { s.flags with n := m.getLsbD 7, z := m == 0 } }) ∧
    (∃ b : Bus, s.bus.Keeps b ∧ b.cycles = s.bus.cycles + 3 ∧
      exec .plp s = .next { s with bus := b, sp := s.sp + 1, flags := Flags.unpack m })

/-- Pbyte, SetP and SetNZ (R39). The three flag helpers of R39. Interrupt entry is two reads and `takeException`
(InterruptEntryPushesAndVectors). -/
def Obligations.StatusByteCopies : Prop :=
  (∀ (f : Flags) (b : Bool),
    (f.pack b).toNat = 128 * f.n.toNat + 64 * f.v.toNat + 32 + 16 * b.toNat + 8 * f.d.toNat + 4 * f.i.toNat + 2 * f.z.toNat +
      f.c.toNat) ∧
  (∀ p : Byte, Flags.unpack p =
    { c := p.getLsbD 0, z := p.getLsbD 1, i := p.getLsbD 2, d := p.getLsbD 3, v := p.getLsbD 6, n := p.getLsbD 7 }) ∧
  (∀ (f : Flags) (r : Byte), f.setNZ r = { f with n := r.getLsbD 7, z := decide (r = 0) }) ∧
  Entry.brk.breakBit = true ∧ Entry.irq.breakBit = false ∧ Entry.nmi.breakBit = false ∧
  (∀ s : State,
    (s.takeException .brk).bus.storage (stackAddr (s.sp - 2)) = some (s.flags.pack true) ∧
    (s.takeException .irq).bus.storage (stackAddr (s.sp - 2)) = some (s.flags.pack false) ∧
    (s.takeException .nmi).bus.storage (stackAddr (s.sp - 2)) = some (s.flags.pack false)) ∧
  (∀ (s : State) (sig : Byte), exec (.brk sig) s = .next (s.takeException .brk)) ∧
  (∀ s : State, exec .php s = .next (s.dummyFetch.push (s.flags.pack true)))

/-- LDA, LDX, LDY and LAX load their operand and set N and Z (R220, R221, R222, R381). Constructors: ldyImm, ldaIndX,
ldxImm, laxIndX, ldyZp, ldaZp, ldxZp, laxZp, ldaImm, ldyAbs, ldaAbs, ldxAbs, laxAbs, ldaIndY, laxIndY, ldyZpX, ldaZpX,
ldxZpY, laxZpY, ldaAbsY, ldyAbsX, ldaAbsX, ldxAbsY, laxAbsY. What the operand is: EffectiveAddressOfModes and
OperandsReadAndFrame. -/
def Obligations.LoadsTakeOperand : Prop :=
  ∀ (i : Instr) (o : Operand) (s : State),
    let m := (readOperand o s).1
    let f : Flags := { s.flags with n := m.getLsbD 7, z := m == 0 }
    s.bus.Keeps (readOperand o s).2 ∧
    (i.shape = .read .lda o → exec i s = .next { s with bus := (readOperand o s).2, a := m, flags := f }) ∧
    (i.shape = .read .ldx o → exec i s = .next { s with bus := (readOperand o s).2, x := m, flags := f }) ∧
    (i.shape = .read .ldy o → exec i s = .next { s with bus := (readOperand o s).2, y := m, flags := f }) ∧
    (i.shape = .read .lax o → exec i s = .next { s with bus := (readOperand o s).2, a := m, x := m, flags := f })

/-- STA, STX, STY and SAX write A, X, Y and A AND X at their effective address (R223, R224, R225, R382). Constructors:
staIndX, saxIndX, styZp, staZp, stxZp, saxZp, styAbs, staAbs, stxAbs, saxAbs, staIndY, styZpX, staZpX, stxZpY, saxZpY,
staAbsY, staAbsX. What PRG RAM and bank-select registers a mapper has is log 3 and log 4. -/
def Obligations.StoresWriteRegister : Prop :=
  ∀ (i : Instr) (op : WriteOp) (e : EaMode) (s : State), i.shape = .write op e →
    let a := (resolve .write e s).1
    let v := match op with
      | .sta => s.a
      | .stx => s.x
      | .sty => s.y
      | .sax => s.a &&& s.x
    let b := (resolve .write e s).2.write a v
    exec i s = .next { s with bus := b } ∧ s.bus.StoresOnly [a] b ∧
      (∀ k, s.bus.sameCell k a = true → s.bus.writable a = true → b.storage k = some v)

/-- The six register transfers (R226, R227, R228, R229, R230, R231). Constructors: tax, tay, txa, tya, tsx, txs. -/
def Obligations.TransfersCopyRegister : Prop :=
  ∀ s : State,
    let b := s.bus.dummyRead s.pc
    let f := fun r : Byte => ({ s.flags with n := r.getLsbD 7, z := r == 0 } : Flags)
    exec .tax s = .next { s with bus := b, x := s.a, flags := f s.a } ∧
    exec .tay s = .next { s with bus := b, y := s.a, flags := f s.a } ∧
    exec .txa s = .next { s with bus := b, a := s.x, flags := f s.x } ∧
    exec .tya s = .next { s with bus := b, a := s.y, flags := f s.y } ∧
    exec .tsx s = .next { s with bus := b, x := s.sp, flags := f s.sp } ∧
    exec .txs s = .next { s with bus := b, sp := s.x } ∧
    s.bus.Keeps b ∧ b.cycles = s.bus.cycles + 1 ∧
    [Instr.tax, .tay, .txa, .tya, .tsx, .txs].map encode = [[0xAA], [0xA8], [0x8A], [0x98], [0xBA], [0x9A]] ∧
    [Instr.tax, .tay, .txa, .tya, .tsx, .txs].map baseCycles = [2, 2, 2, 2, 2, 2]

/-- ADC: the sum, its carry and its flags, in every form (R260, R262). Constructors: adcIndX, adcZp, adcImm, adcAbs,
adcIndY, adcZpX, adcAbsY, adcAbsX. -/
def Obligations.AddWithCarry : Prop :=
  ∀ (i : Instr) (o : Operand) (s : State), i.shape = .read .adc o →
    let m := (readOperand o s).1
    let sum := s.a.toNat + m.toNat + s.flags.c.toNat
    let r := BitVec.ofNat 8 sum
    s.bus.Keeps (readOperand o s).2 ∧
    exec i s = .next { s with
      bus := (readOperand o s).2
      a := r
      flags := { s.flags with
        c := decide (sum > 255)
        v := (((s.a ^^^ r) &&& (m ^^^ r)) &&& 0x80) != 0
        n := r.getLsbD 7
        z := r == 0 } }

/-- SBC: the difference, its borrow and its flags, in every form, 0xEB included (R260, R263, R387). Constructors: sbcIndX,
sbcZp, sbcImm, sbcEBImm, sbcAbs, sbcIndY, sbcZpX, sbcAbsY, sbcAbsX. -/
def Obligations.SubtractWithBorrow : Prop :=
  ∀ (i : Instr) (o : Operand) (s : State), i.shape = .read .sbc o →
    let m := (readOperand o s).1
    let sum := s.a.toNat + (0xFF ^^^ m).toNat + s.flags.c.toNat
    let r := BitVec.ofNat 8 sum
    s.bus.Keeps (readOperand o s).2 ∧
    exec i s = .next { s with
      bus := (readOperand o s).2
      a := r
      flags := { s.flags with
        c := decide (sum > 255)
        v := (((s.a ^^^ m) &&& (s.a ^^^ r)) &&& 0x80) != 0
        n := r.getLsbD 7
        z := r == 0 } }

/-- What C and V of ADC and SBC mean: unsigned carry and borrow, two's-complement overflow (R261, R262, R263). The reading
of C and V that R261 gives. -/
def Obligations.CarryAndOverflowMeanUnsignedAndSigned : Prop :=
  ∀ (a m : Byte) (f : Flags),
    let k : Int := f.c.toNat
    let sum := a.toInt + m.toInt + k
    let diff := a.toInt - m.toInt - (1 - k)
    ((adc a m f).value.toNat : Int) + 256 * ((adc a m f).flags.c.toNat : Int) = (a.toNat : Int) + (m.toNat : Int) + k ∧
    (adc a m f).flags.v = decide (sum < -128 ∨ sum > 127) ∧
    (sbc a m f).flags.c = decide ((a.toNat : Int) ≥ (m.toNat : Int) + (1 - k)) ∧
    ((sbc a m f).value.toNat : Int) = ((a.toNat : Int) - (m.toNat : Int) - (1 - k)) % 256 ∧
    (sbc a m f).flags.v = decide (diff < -128 ∨ diff > 127)

/-- D changes no result of ADC, SBC, RRA and ISB (R260, R386, R389). Constructors: adcIndX, adcZp, adcImm, adcAbs,
adcIndY, adcZpX, adcAbsY, adcAbsX, sbcIndX, sbcZp, sbcImm, sbcEBImm, sbcAbs, sbcIndY, sbcZpX, sbcAbsY, sbcAbsX,
rraIndX, rraZp, rraAbs, rraIndY, rraZpX, rraAbsY, rraAbsX, isbIndX, isbZp, isbAbs, isbIndY, isbZpX, isbAbsY, isbAbsX. -/
def Obligations.DecimalFlagHasNoEffect : Prop :=
  ∀ (i : Instr) (s t : State) (d : Bool),
    ((∃ o, i.shape = .read .adc o ∨ i.shape = .read .sbc o) ∨ (∃ e, i.shape = .rmw .rra e ∨ i.shape = .rmw .isb e)) →
    exec i s = .next t →
    exec i { s with flags := { s.flags with d := d } } = .next { t with flags := { t.flags with d := d } }

/-- AND, ORA and EOR, in every form (R264, R265, R266). Constructors: oraIndX, oraZp, oraImm, oraAbs, oraIndY, oraZpX,
oraAbsY, oraAbsX, andIndX, andZp, andImm, andAbs, andIndY, andZpX, andAbsY, andAbsX, eorIndX, eorZp, eorImm, eorAbs,
eorIndY, eorZpX, eorAbsY, eorAbsX. -/
def Obligations.LogicCombinesOperand : Prop :=
  ∀ (i : Instr) (o : Operand) (s : State),
    let m := (readOperand o s).1
    let f := fun r : Byte => ({ s.flags with n := r.getLsbD 7, z := r == 0 } : Flags)
    s.bus.Keeps (readOperand o s).2 ∧
    (i.shape = .read .and o → exec i s = .next { s with bus := (readOperand o s).2, a := s.a &&& m, flags := f (s.a &&& m) }) ∧
    (i.shape = .read .ora o → exec i s = .next { s with bus := (readOperand o s).2, a := s.a ||| m, flags := f (s.a ||| m) }) ∧
    (i.shape = .read .eor o → exec i s = .next { s with bus := (readOperand o s).2, a := s.a ^^^ m, flags := f (s.a ^^^ m) })

/-- BIT: Z from A AND m, N and V from the operand (R267). Constructors: bitZp, bitAbs. -/
def Obligations.BitTestsOperand : Prop :=
  ∀ (i : Instr) (o : Operand) (s : State), i.shape = .read .bit o →
    let m := (readOperand o s).1
    s.bus.Keeps (readOperand o s).2 ∧
    exec i s = .next { s with
      bus := (readOperand o s).2
      flags := { s.flags with z := decide (s.a &&& m = 0), n := m.getLsbD 7, v := m.getLsbD 6 } }

/-- CMP, CPX and CPY, in every form (R268, R269, R270). Constructors: cpyImm, cmpIndX, cpyZp, cmpZp, cmpImm, cpyAbs,
cmpAbs, cmpIndY, cmpZpX, cmpAbsY, cmpAbsX, cpxImm, cpxZp, cpxAbs. -/
def Obligations.ComparesSetCarryZeroNegative : Prop :=
  ∀ (i : Instr) (o : Operand) (s : State),
    let m := (readOperand o s).1
    let f := fun r : Byte => ({ s.flags with
      c := decide (r.toNat ≥ m.toNat), z := decide (r = m), n := decide ((r.toNat + 256 - m.toNat) % 256 ≥ 128) } : Flags)
    s.bus.Keeps (readOperand o s).2 ∧
    (i.shape = .read .cmp o → exec i s = .next { s with bus := (readOperand o s).2, flags := f s.a }) ∧
    (i.shape = .read .cpx o → exec i s = .next { s with bus := (readOperand o s).2, flags := f s.x }) ∧
    (i.shape = .read .cpy o → exec i s = .next { s with bus := (readOperand o s).2, flags := f s.y })

/-- INC and DEC of memory, in every form (R181, R271, R272). Constructors: decZp, decAbs, decZpX, decAbsX, incZp, incAbs,
incZpX, incAbsX. What `rmwByte` and `rmwBus` are: OperandsReadAndFrame. -/
def Obligations.MemoryIncrementDecrement : Prop :=
  ∀ (i : Instr) (e : EaMode) (s : State),
    let m := rmwByte e s
    let f := fun r : Byte => ({ s.flags with n := r.getLsbD 7, z := r == 0 } : Flags)
    (i.shape = .rmw .inc e → exec i s = .next { s with bus := rmwBus e (m + 1) s, flags := f (m + 1) } ∧
      s.bus.StoresOnly [(resolve .rmw e s).1] (rmwBus e (m + 1) s)) ∧
    (i.shape = .rmw .dec e → exec i s = .next { s with bus := rmwBus e (m - 1) s, flags := f (m - 1) } ∧
      s.bus.StoresOnly [(resolve .rmw e s).1] (rmwBus e (m - 1) s))

/-- INX, INY, DEX and DEY (R273, R274, R275, R276). Constructors: inx, iny, dex, dey. -/
def Obligations.RegisterIncrementDecrement : Prop :=
  ∀ s : State,
    let b := s.bus.dummyRead s.pc
    let f := fun r : Byte => ({ s.flags with n := r.getLsbD 7, z := r == 0 } : Flags)
    exec .inx s = .next { s with bus := b, x := s.x + 1, flags := f (s.x + 1) } ∧
    exec .iny s = .next { s with bus := b, y := s.y + 1, flags := f (s.y + 1) } ∧
    exec .dex s = .next { s with bus := b, x := s.x - 1, flags := f (s.x - 1) } ∧
    exec .dey s = .next { s with bus := b, y := s.y - 1, flags := f (s.y - 1) } ∧
    s.bus.Keeps b ∧ b.cycles = s.bus.cycles + 1 ∧
    [Instr.inx, .iny, .dex, .dey].map encode = [[0xE8], [0xC8], [0xCA], [0x88]] ∧
    [Instr.inx, .iny, .dex, .dey].map baseCycles = [2, 2, 2, 2]

/-- ASL, LSR, ROL and ROR of memory, in every form (R181, R300, R301, R302, R303). Constructors: aslZp, aslAbs, aslZpX,
aslAbsX, rolZp, rolAbs, rolZpX, rolAbsX, lsrZp, lsrAbs, lsrZpX, lsrAbsX, rorZp, rorAbs, rorZpX, rorAbsX. -/
def Obligations.MemoryShiftsRotate : Prop :=
  ∀ (i : Instr) (e : EaMode) (s : State),
    let m := rmwByte e s
    let f := fun (r : Byte) (c : Bool) => ({ s.flags with n := r.getLsbD 7, z := r == 0, c := c } : Flags)
    (i.shape = .rmw .asl e → exec i s = .next { s with bus := rmwBus e (BitVec.ofNat 8 (2 * m.toNat)) s, flags := f (BitVec.ofNat 8 (2 * m.toNat)) (m.getLsbD 7) } ∧
      s.bus.StoresOnly [(resolve .rmw e s).1] (rmwBus e (BitVec.ofNat 8 (2 * m.toNat)) s)) ∧
    (i.shape = .rmw .lsr e → exec i s = .next { s with bus := rmwBus e (BitVec.ofNat 8 (m.toNat / 2)) s, flags := f (BitVec.ofNat 8 (m.toNat / 2)) (m.getLsbD 0) } ∧
      s.bus.StoresOnly [(resolve .rmw e s).1] (rmwBus e (BitVec.ofNat 8 (m.toNat / 2)) s)) ∧
    (i.shape = .rmw .rol e → exec i s = .next { s with bus := rmwBus e (BitVec.ofNat 8 (2 * m.toNat + s.flags.c.toNat)) s, flags := f (BitVec.ofNat 8 (2 * m.toNat + s.flags.c.toNat)) (m.getLsbD 7) } ∧
      s.bus.StoresOnly [(resolve .rmw e s).1] (rmwBus e (BitVec.ofNat 8 (2 * m.toNat + s.flags.c.toNat)) s)) ∧
    (i.shape = .rmw .ror e → exec i s = .next { s with bus := rmwBus e (BitVec.ofNat 8 (m.toNat / 2 + 128 * s.flags.c.toNat)) s, flags := f (BitVec.ofNat 8 (m.toNat / 2 + 128 * s.flags.c.toNat)) (m.getLsbD 0) } ∧
      s.bus.StoresOnly [(resolve .rmw e s).1] (rmwBus e (BitVec.ofNat 8 (m.toNat / 2 + 128 * s.flags.c.toNat)) s))

/-- ASL A, LSR A, ROL A and ROR A (R184, R300, R301, R302, R303). Constructors: aslAcc, rolAcc, lsrAcc, rorAcc. -/
def Obligations.AccumulatorShiftsRotate : Prop :=
  ∀ s : State,
    let m := s.a
    let b := s.bus.dummyRead s.pc
    let f := fun (r : Byte) (c : Bool) => ({ s.flags with n := r.getLsbD 7, z := r == 0, c := c } : Flags)
    s.bus.Keeps b ∧ b.cycles = s.bus.cycles + 1 ∧
    exec .aslAcc s = .next { s with bus := b, a := BitVec.ofNat 8 (2 * m.toNat), flags := f (BitVec.ofNat 8 (2 * m.toNat)) (m.getLsbD 7) } ∧
    exec .lsrAcc s = .next { s with bus := b, a := BitVec.ofNat 8 (m.toNat / 2), flags := f (BitVec.ofNat 8 (m.toNat / 2)) (m.getLsbD 0) } ∧
    exec .rolAcc s = .next { s with bus := b, a := BitVec.ofNat 8 (2 * m.toNat + s.flags.c.toNat), flags := f (BitVec.ofNat 8 (2 * m.toNat + s.flags.c.toNat)) (m.getLsbD 7) } ∧
    exec .rorAcc s = .next { s with bus := b, a := BitVec.ofNat 8 (m.toNat / 2 + 128 * s.flags.c.toNat), flags := f (BitVec.ofNat 8 (m.toNat / 2 + 128 * s.flags.c.toNat)) (m.getLsbD 0) }

/-- CLC, SEC, CLI, SEI, CLD, SED and CLV write one flag (R350, R351, R352, R353, R354, R355, R356). Constructors: clc,
sec, cli, sei, cld, sed, clv. When the new I acts: IrqTakenAtBoundary. -/
def Obligations.FlagInstructionsWriteOneFlag : Prop :=
  ∀ s : State,
    let b := s.bus.dummyRead s.pc
    exec .clc s = .next { s with bus := b, flags := { s.flags with c := false } } ∧
    exec .sec s = .next { s with bus := b, flags := { s.flags with c := true } } ∧
    exec .cli s = .next { s with bus := b, flags := { s.flags with i := false } } ∧
    exec .sei s = .next { s with bus := b, flags := { s.flags with i := true } } ∧
    exec .cld s = .next { s with bus := b, flags := { s.flags with d := false } } ∧
    exec .sed s = .next { s with bus := b, flags := { s.flags with d := true } } ∧
    exec .clv s = .next { s with bus := b, flags := { s.flags with v := false } } ∧
    s.bus.Keeps b ∧ b.cycles = s.bus.cycles + 1 ∧
    [Instr.clc, .sec, .cli, .sei, .cld, .sed, .clv].map encode = [[0x18], [0x38], [0x58], [0x78], [0xD8], [0xF8], [0xB8]]

/-- The 28 NOPs change no register and no flag (R147, R357, R380). Constructors: nop1A, nop3A, nop5A, nop7A, nopDA, nop,
nopFA, nop04Zp, nop0CAbs, nop14ZpX, nop1CAbsX, nop34ZpX, nop3CAbsX, nop44Zp, nop54ZpX, nop5CAbsX, nop64Zp, nop74ZpX,
nop7CAbsX, nop80Imm, nop82Imm, nop89Imm, nopC2Imm, nopD4ZpX, nopDCAbsX, nopE2Imm, nopF4ZpX, nopFCAbsX. -/
def Obligations.NopsOnlyRead : Prop :=
  (∀ (i : Instr) (s : State), i.shape = .implied .nop →
    exec i s = .next { s with bus := s.bus.dummyRead s.pc } ∧ s.bus.Keeps (s.bus.dummyRead s.pc)) ∧
  (∀ (i : Instr) (o : Operand) (s : State), i.shape = .read .nop o →
    exec i s = .next { s with bus := (readOperand o s).2 } ∧ s.bus.Keeps (readOperand o s).2) ∧
  (∀ s : State, s.bus.params.platform = .nes → ∃ t, exec (.nop0CAbs 0x2002) s = .next t ∧ t.bus.ppu.writeLatch = false)

/-- SLO, RLA and SRE: the shift of memory, then the logic into A (R181, R383, R384, R385). Constructors: sloIndX, sloZp,
sloAbs, sloIndY, sloZpX, sloAbsY, sloAbsX, rlaIndX, rlaZp, rlaAbs, rlaIndY, rlaZpX, rlaAbsY, rlaAbsX, sreIndX, sreZp,
sreAbs, sreIndY, sreZpX, sreAbsY, sreAbsX. -/
def Obligations.ShiftThenLogic : Prop :=
  ∀ (i : Instr) (e : EaMode) (s : State),
    let m := rmwByte e s
    let f := fun (r : Byte) (c : Bool) => ({ s.flags with n := r.getLsbD 7, z := r == 0, c := c } : Flags)
    (i.shape = .rmw .slo e → exec i s = .next { s with bus := rmwBus e (BitVec.ofNat 8 (2 * m.toNat)) s, a := s.a ||| BitVec.ofNat 8 (2 * m.toNat), flags := f (s.a ||| BitVec.ofNat 8 (2 * m.toNat)) (m.getLsbD 7) } ∧
      s.bus.StoresOnly [(resolve .rmw e s).1] (rmwBus e (BitVec.ofNat 8 (2 * m.toNat)) s)) ∧
    (i.shape = .rmw .rla e → exec i s = .next { s with bus := rmwBus e (BitVec.ofNat 8 (2 * m.toNat + s.flags.c.toNat)) s, a := s.a &&& BitVec.ofNat 8 (2 * m.toNat + s.flags.c.toNat), flags := f (s.a &&& BitVec.ofNat 8 (2 * m.toNat + s.flags.c.toNat)) (m.getLsbD 7) } ∧
      s.bus.StoresOnly [(resolve .rmw e s).1] (rmwBus e (BitVec.ofNat 8 (2 * m.toNat + s.flags.c.toNat)) s)) ∧
    (i.shape = .rmw .sre e → exec i s = .next { s with bus := rmwBus e (BitVec.ofNat 8 (m.toNat / 2)) s, a := s.a ^^^ BitVec.ofNat 8 (m.toNat / 2), flags := f (s.a ^^^ BitVec.ofNat 8 (m.toNat / 2)) (m.getLsbD 0) } ∧
      s.bus.StoresOnly [(resolve .rmw e s).1] (rmwBus e (BitVec.ofNat 8 (m.toNat / 2)) s))

/-- RRA, DCP and ISB: the change of memory, then ADC, CMP or SBC (R181, R262, R263, R268, R386, R388, R389). Constructors:
rraIndX, rraZp, rraAbs, rraIndY, rraZpX, rraAbsY, rraAbsX, dcpIndX, dcpZp, dcpAbs, dcpIndY, dcpZpX, dcpAbsY, dcpAbsX,
isbIndX, isbZp, isbAbs, isbIndY, isbZpX, isbAbsY, isbAbsX. What `adc` and `sbc` answer: AddWithCarry,
SubtractWithBorrow. -/
def Obligations.RmwThenArithmetic : Prop :=
  ∀ (i : Instr) (e : EaMode) (s : State),
    let m := rmwByte e s
    let ror := BitVec.ofNat 8 (m.toNat / 2 + 128 * s.flags.c.toNat)
    let q := adc s.a ror { s.flags with c := m.getLsbD 0 }
    let d := sbc s.a (m + 1) s.flags
    (i.shape = .rmw .rra e → exec i s = .next { s with bus := rmwBus e (ror) s, a := q.value, flags := q.flags } ∧
      s.bus.StoresOnly [(resolve .rmw e s).1] (rmwBus e (ror) s)) ∧
    (i.shape = .rmw .dcp e → exec i s = .next { s with bus := rmwBus e (m - 1) s, flags := { s.flags with
        c := decide (s.a.toNat ≥ (m - 1).toNat), z := decide (s.a = m - 1), n := (s.a - (m - 1)).getLsbD 7 } } ∧
      s.bus.StoresOnly [(resolve .rmw e s).1] (rmwBus e (m - 1) s)) ∧
    (i.shape = .rmw .isb e → exec i s = .next { s with bus := rmwBus e (m + 1) s, a := d.value, flags := d.flags } ∧
      s.bus.StoresOnly [(resolve .rmw e s).1] (rmwBus e (m + 1) s))

/-- The effective address of the eight memory modes (R89, R186, R187, R188, R189, R190, R191). The address the statements
about stores and RMW instructions compute is this one. -/
def Obligations.EffectiveAddressOfModes : Prop :=
  ∀ (cls : AccessClass) (s : State) (z : Byte) (a : Addr),
    let ram := fun n : Nat => (Memory.byte s.bus.mem (n % 256)).toNat
    (resolve cls (.zp z) s).1 = BitVec.ofNat 16 z.toNat ∧
    (resolve cls (.zpX z) s).1 = BitVec.ofNat 16 ((z.toNat + s.x.toNat) % 256) ∧
    (resolve cls (.zpY z) s).1 = BitVec.ofNat 16 ((z.toNat + s.y.toNat) % 256) ∧
    (resolve cls (.abs a) s).1 = a ∧
    (resolve cls (.absX a) s).1 = BitVec.ofNat 16 (a.toNat + s.x.toNat) ∧
    (resolve cls (.absY a) s).1 = BitVec.ofNat 16 (a.toNat + s.y.toNat) ∧
    (resolve cls (.indX z) s).1 =
      BitVec.ofNat 16 (ram (z.toNat + s.x.toNat + 1) * 256 + ram (z.toNat + s.x.toNat)) ∧
    (resolve cls (.indY z) s).1 = BitVec.ofNat 16 (ram (z.toNat + 1) * 256 + ram z.toNat + s.y.toNat)

/-- What a Read-class operand and an RMW-class access read and write (R181, R182, R185). The three terms of R182. That an
immediate operand's bus cycle stands in the fetch and not in `exec` is log 22 (DEDUCED; R185 gives it a cycle); which
addresses are PRG RAM is log 3 (DESIGN CHOICE). -/
def Obligations.OperandsReadAndFrame : Prop :=
  ∀ (s : State) (m r v : Byte) (e : EaMode),
    readOperand (.imm m) s = (m, s.bus) ∧
    (let q := resolve .read e s
     s.bus.Keeps q.2 ∧ readOperand (.mem e) s = q.2.read q.1 ∧ (q.2.storage q.1 = some v → (readOperand (.mem e) s).1 = v) ∧
     (s.bus.still q.1 = true → q.2.storage q.1 = s.bus.storage q.1)) ∧
    s.bus.Keeps (readOperand (.mem e) s).2 ∧
    (let q := resolve .rmw e s
     s.bus.Keeps q.2 ∧ rmwByte e s = (q.2.read q.1).1 ∧ (q.2.storage q.1 = some v → rmwByte e s = v) ∧
     (s.bus.still q.1 = true → q.2.storage q.1 = s.bus.storage q.1) ∧
     s.bus.StoresOnly [q.1] (rmwBus e r s) ∧ (rmwBus e r s).openBus = r ∧
     (∀ k, s.bus.sameCell k q.1 = true → s.bus.writable q.1 = true → (rmwBus e r s).storage k = some r))

/-- Every instruction takes its documented cycles, plus page-cross and branch cycles, and nothing else (R194, R195, R320,
R540, R541, R543). All 256 constructors; `baseCycles` is the column of spec/opcode_table.json. -/
def Obligations.CycleCountsOfInstructions : Prop :=
  ∀ (i : Instr) (s : State), ∃ t, exec i s = .next t ∧
    t.bus.cycles + fetchCycles i = s.bus.cycles + baseCycles i + extraCycles i s

/-- What step() returns for an instruction is its documented cycle count (R22, R194, R195, R540). The testable property T1
of 95_test_vectors.md, with no DMA. -/
def Obligations.StepReturnsDocumentedCycles : Prop :=
  ∀ (s w : State), s.fatal = none → s.takeInputs.poll = .instruction →
    exec s.takeInputs.fetchInstr.1 s.takeInputs.fetchInstr.2 = .next w → w.bus.dma = {} →
    s.takeInputs.fetchInstr.1.wellFormed = true →
    stepReturn s = some (.cycles (baseCycles s.takeInputs.fetchInstr.1 +
      extraCycles s.takeInputs.fetchInstr.1 s.takeInputs.fetchInstr.2))

/-- Decoding an encoded instruction gives it back, with every operand (R140, R142, R143, R144, R151). Admitted and refused
rows alike. -/
def Obligations.DecodeOfEncodeIsInstruction : Prop :=
  ∀ (i : Instr) (rest : List Byte), decode (encode i ++ rest) = .instr i rest

/-- The decoder rejects no opcode, and what it reads is what the encoder writes (R141, R142, R145, R150). The opcode alone
selects the row (R141). -/
def Obligations.DecoderIsTotalAndInverse : Prop :=
  (∀ (op b1 b2 : Byte) (rest : List Byte), ∃ i r, decode (op :: b1 :: b2 :: rest) = .instr i r ∧ i.opcode = op) ∧
  (∀ (bytes rest : List Byte) (i : Instr), decode bytes = .instr i rest → bytes = encode i ++ rest) ∧
  (∀ i : Instr, i.wellFormed = false ↔ ∃ op, i.shape = .refused op) ∧
  ((List.range 256).filter (fun n => admitted (BitVec.ofNat 8 n))).length = 231

/-- Words written out from the opcode map decode to their instructions (R143, R144). A sanity statement. -/
def Obligations.DecodeSampleWords : Prop :=
  decode [0xA9, 0x80] = .instr (.ldaImm 0x80) [] ∧ decode [0x9D, 0x00, 0x20] = .instr (.staAbsX 0x2000) [] ∧
  decode [0xAA] = .instr .tax [] ∧ decode [0x48] = .instr .pha [] ∧ decode [0x71, 0x40] = .instr (.adcIndY 0x40) [] ∧
  decode [0xE9, 0xF0] = .instr (.sbcImm 0xF0) [] ∧ decode [0x7E, 0xFF, 0x02] = .instr (.rorAbsX 0x02FF) [] ∧
  decode [0xD0, 0xFC] = .instr (.bne 0xFC) [] ∧ decode [0x6C, 0xFF, 0x10] = .instr (.jmpInd 0x10FF) [] ∧
  decode [0x20, 0x00, 0x90] = .instr (.jsr 0x9000) [] ∧ decode [0x58] = .instr .cli [] ∧
  decode [0x00, 0xFF] = .instr (.brk 0xFF) [] ∧ decode [0x1B, 0xFF, 0x02] = .instr (.sloAbsY 0x02FF) [] ∧
  decode [0x8B] = .instr .xaa []

/-- Who may change A, X, Y and S (R32, R33, R34). The writers R32, R33 and R34 name. -/
def Obligations.RegisterWriters : Prop :=
  ∀ (i : Instr) (s t : State), exec i s = .next t →
    (t.a ≠ s.a → ((∃ o, i.shape ∈ [.read .lda o, .read .adc o, .read .sbc o, .read .and o, .read .ora o, .read .eor o, .read .lax o]) ∨
        (∃ op, i.shape = .acc op) ∨
        (∃ e, i.shape ∈ [.rmw .slo e, .rmw .rla e, .rmw .sre e, .rmw .rra e, .rmw .isb e]) ∨
        i.shape ∈ [.pla, .implied .txa, .implied .tya])) ∧
    (t.x ≠ s.x → ((∃ o, i.shape ∈ [.read .ldx o, .read .lax o]) ∨
        i.shape ∈ [.implied .tax, .implied .tsx, .implied .inx, .implied .dex])) ∧
    (t.y ≠ s.y → ((∃ o, i.shape ∈ [.read .ldy o]) ∨
        i.shape ∈ [.implied .tay, .implied .iny, .implied .dey])) ∧
    (t.sp ≠ s.sp → ((∃ a, i.shape = .jsr a) ∨
        (∃ sig, i.shape = .brk sig) ∨
        i.shape ∈ [.implied .txs, .pha, .php, .pla, .plp, .rts, .rti]))

/-- Who may change each flag (R37). Interrupt entry and reset, which also write I, are no instructions. -/
def Obligations.FlagWriters : Prop :=
  ∀ (i : Instr) (s t : State), exec i s = .next t →
    (t.flags.c ≠ s.flags.c → ((∃ o, i.shape ∈ [.read .adc o, .read .sbc o, .read .cmp o, .read .cpx o, .read .cpy o]) ∨
        (∃ e, i.shape ∈ [.rmw .asl e, .rmw .lsr e, .rmw .rol e, .rmw .ror e, .rmw .slo e, .rmw .rla e, .rmw .sre e, .rmw .rra e, .rmw .dcp e, .rmw .isb e]) ∨
        (∃ op, i.shape = .acc op) ∨
        i.shape ∈ [.implied .clc, .implied .sec, .plp, .rti])) ∧
    (t.flags.z ≠ s.flags.z → ((∃ o, i.shape ∈ [.read .lda o, .read .ldx o, .read .ldy o, .read .lax o, .read .adc o, .read .sbc o, .read .and o, .read .ora o, .read .eor o, .read .bit o, .read .cmp o, .read .cpx o, .read .cpy o]) ∨
        (∃ op e, i.shape = .rmw op e) ∨
        (∃ op, i.shape = .acc op) ∨
        i.shape ∈ [.pla, .plp, .rti, .implied .tax, .implied .tay, .implied .txa, .implied .tya, .implied .tsx, .implied .inx, .implied .iny, .implied .dex, .implied .dey])) ∧
    (t.flags.i ≠ s.flags.i → ((∃ sig, i.shape = .brk sig) ∨
        i.shape ∈ [.implied .cli, .implied .sei, .plp, .rti])) ∧
    (t.flags.d ≠ s.flags.d → i.shape ∈ [.implied .cld, .implied .sed, .plp, .rti]) ∧
    (t.flags.v ≠ s.flags.v → ((∃ o, i.shape ∈ [.read .adc o, .read .sbc o, .read .bit o]) ∨
        (∃ e, i.shape ∈ [.rmw .rra e, .rmw .isb e]) ∨
        i.shape ∈ [.implied .clv, .plp, .rti])) ∧
    (t.flags.n ≠ s.flags.n → ((∃ o, i.shape ∈ [.read .lda o, .read .ldx o, .read .ldy o, .read .lax o, .read .adc o, .read .sbc o, .read .and o, .read .ora o, .read .eor o, .read .bit o, .read .cmp o, .read .cpx o, .read .cpy o]) ∨
        (∃ op e, i.shape = .rmw op e) ∨
        (∃ op, i.shape = .acc op) ∨
        i.shape ∈ [.pla, .plp, .rti, .implied .tax, .implied .tay, .implied .txa, .implied .tya, .implied .tsx, .implied .inx, .implied .iny, .implied .dex, .implied .dey]))

/-- Internal RAM: four mirrors of 2 KiB, last write read back, no side effects (R83, R84, R98). What a byte never written
reads as is log 1; nothing here rests on it. The flat platform is harness H0 (R14, log 30). -/
def Obligations.RamMirrorsHoldLastWrite : Prop :=
  (∀ (b : Bus) (a k : Addr) (v : Byte), b.params.platform = .nes → a.toNat < 0x2000 → k.toNat < 0x2000 →
    ((b.write a v).read k).1 = if k.toNat % 2048 = a.toNat % 2048 then v else (b.read k).1) ∧
  (∀ (b : Bus) (a : Addr), b.params.platform = .nes → a.toNat < 0x2000 →
    (b.read a).1 = Memory.byte b.mem (a.toNat % 2048) ∧
    (b.read a).2 = ((b.drive (b.read a).1).observe false a (b.read a).1).tick ∧
    (b.cart.quiet = true → (b.read a).2 = (b.drive (b.read a).1).tick)) ∧
  (∀ (b : Bus) (a k : Addr) (v : Byte), b.params.platform = .flat →
    ((b.write a v).read k).1 = (if k = a then v else (b.read k).1) ∧ (b.read a).1 = Memory.byte b.mem a.toNat) ∧
  (∀ b : Bus, b.params.platform = .flat → b.tick.nmiPending = b.nmiPending ∧ b.tick.nmiLinePrev = false ∧
    b.tick.mem = b.mem ∧ b.tick.cycles = b.cycles + 1)

/-- Undriven and write-only reads return the last driven byte; ROM writes change no ROM (R83, R85, R86, R87, R93, R104).
Which register a bank-select value goes to, and what a variant mapper makes of a write, is log 4; which addresses are
PRG RAM is log 3; `ppu_read_writeonly` is log 16. -/
def Obligations.OpenBusAndIgnoredWrites : Prop :=
  (∀ (b : Bus) (a : Addr), b.params.platform = .nes →
    ((0x4018 ≤ a.toNat ∧ a.toNat < 0x4020) ∨ (0x4020 ≤ a.toNat ∧ b.storage a = none) ∨
      (0x4000 ≤ a.toNat ∧ a.toNat < 0x4015)) → (b.read a).1 = b.openBus ∧ (b.read a).2.openBus = b.openBus) ∧
  (∀ (b : Bus) (a : Addr), b.params.platform = .nes → 0x2000 ≤ a.toNat → a.toNat < 0x4000 → (a.toNat % 8) ∈ [0, 1, 3, 5, 6] →
    (b.params.writeOnlyRead = .openBus → (b.read a).1 = b.openBus) ∧
    (∀ v, b.params.writeOnlyRead = .fixed v → (b.read a).1 = v) ∧
    (b.read a).2.openBus = (b.read a).1 ∧
    ∃ n, (b.read a).2 = { b.drive (b.read a).1 with freeCount := n, cart := b.cart.observe false a (b.read a).1 }.tick) ∧
  (∀ (b : Bus) (a : Addr) (v : Byte), (b.write a v).openBus = v) ∧
  (∀ (b : Bus) (a : Addr) (v : Byte), b.storage a = some v → (b.read a).2.openBus = v) ∧
  (∀ (b : Bus) (a : Addr) (v : Byte), b.params.platform = .nes →
    ((0x4020 ≤ a.toNat ∧ ∀ n, b.cart.target a ≠ some (.ram n)) ∨ (0x4018 ≤ a.toNat ∧ a.toNat < 0x4020)) →
    (∃ m, b.write a v = { b.drive v with cart := { b.cart with map := m } }.tick) ∧
    (b.cart.selects a = false → b.write a v = (b.drive v).tick)) ∧
  (∀ (b : Bus) (a : Addr) (v : Byte), (b.write a v).cart.rom = b.cart.rom)

/-- Every bus cycle and every idle cycle ticks the platform, samples the NMI level and counts one cycle (R82, R426, R428).
The tick of R82, with the edge detection of R428 and the level of R426. That the mapper's ticks of a cycle are one
answer, given the PPU's position at its start, is log 4 (DESIGN CHOICE); that the flat platform has no PPU and so no
NMI is log 30 (see RamMirrorsHoldLastWrite). -/
def Obligations.NmiEdgeIsLatchedEachCycle : Prop :=
  (∀ b : Bus, b.tick.ppu = b.ppu.advance.advance.advance ∧ b.tick.apu.clock = b.apu.clock + 1 ∧
    b.tick.cart = b.cart.tick b.ppu.scanline b.ppu.dot b.ppu.rendering ∧ b.tick.cycles = b.cycles + 1 ∧
    (b.params.platform = .nes →
      (b.tick.nmiPending = true ↔
        b.nmiPending = true ∨
          (b.tick.ppu.vblank = true ∧ b.tick.ppu.ctrl.written.getLsbD 7 = true ∧ b.nmiLinePrev = false)) ∧
      b.tick.nmiLinePrev = (b.tick.ppu.vblank && b.tick.ppu.ctrl.written.getLsbD 7))) ∧
  (∀ (b : Bus) (a : Addr) (v : Byte), b.read a = ((b.accessRead a).1, (b.accessRead a).2.tick) ∧
    b.write a v = (b.accessWrite a v).tick ∧ Bus.idle 1 b = b.tick)

/-- The IRQ line is the OR of its three sources, read at each boundary with the current I (R180, R352, R353, R430, R431,
R434, R527). The line is R430, the mask and the priority are R431, R434 and R180, the mask timing is R352, R353 and
R527. -/
def Obligations.IrqTakenAtBoundary : Prop :=
  (∀ b : Bus, b.irqLine = true ↔ b.apu.frameIrq = true ∨ b.apu.dmcIrq = true ∨ b.cart.map.irq = true) ∧
  (∀ s : State, s.poll = .irq ↔
    s.resetPending = false ∧ s.bus.nmiPending = false ∧ s.flags.i = false ∧
      (s.bus.apu.frameIrq = true ∨ s.bus.apu.dmcIrq = true ∨ s.bus.cart.map.irq = true)) ∧
  (∀ s t : State, exec .cli s = .next t → t.resetPending = false → t.bus.nmiPending = false → t.bus.irqLine = true →
    t.poll = .irq) ∧
  (∀ s t : State, exec .sei s = .next t → t.poll ≠ .irq)

/-- How the frame, DMC and mapper IRQ flags are raised and cleared (R87, R429, R431, R526). When the frame sequencer and
the DMC get there are inputs (log 5, log 18). A variant mapper may change its own flag in any cycle (log 4). -/
def Obligations.IrqSourcesRaiseAndClear : Prop :=
  (∀ (b : Bus) (v : Byte), b.params.platform = .nes →
    (b.read 0x4015).2.apu.frameIrq = false ∧ (b.read 0x4015).2.apu.dmcIrq = b.apu.dmcIrq ∧
    (b.write 0x4017 v).apu.frameIrq = (b.apu.frameIrq && !v.getLsbD 6) ∧ (b.write 0x4017 v).apu.dmcIrq = b.apu.dmcIrq ∧
    (b.write 0x4015 v).apu.dmcIrq = false ∧ (b.write 0x4015 v).apu.frameIrq = b.apu.frameIrq ∧
    (b.write 0x4010 v).apu.dmcIrq = (b.apu.dmcIrq && v.getLsbD 7) ∧ (b.write 0x4010 v).apu.frameIrq = b.apu.frameIrq) ∧
  (∀ (b : Bus) (v : Byte), b.params.platform = .nes →
    Memory.byte (b.write 0x4017 v).apu.regs 0x17 = v ∧ Memory.byte (b.write 0x4010 v).apu.regs 0x10 = v) ∧
  (∀ s : State,
    (s.applyEvent .frameLastStep).bus.apu.frameIrq =
      (s.bus.apu.frameIrq || (!(Memory.byte s.bus.apu.regs 0x17).getLsbD 7 && !(Memory.byte s.bus.apu.regs 0x17).getLsbD 6)) ∧
    (s.applyEvent .dmcExhausted).bus.apu.dmcIrq = (s.bus.apu.dmcIrq || (Memory.byte s.bus.apu.regs 0x10).getLsbD 7)) ∧
  (∀ (s : State) (l : Bool), (s.applyEvent (.mapperIrq l)).bus.cart.map.irq = l) ∧
  (∀ (s : State) (k : Entry), (s.takeException k).bus.apu.frameIrq = s.bus.apu.frameIrq ∧
    (s.takeException k).bus.apu.dmcIrq = s.bus.apu.dmcIrq ∧
    (s.bus.cart.quiet = true → (s.takeException k).bus.cart.map.irq = s.bus.cart.map.irq)) ∧
  (∀ (s : State) (k : Entry), (s.interruptEntry k).bus.apu.dmcIrq = s.bus.apu.dmcIrq ∧
    (s.pc ≠ 0x4015 → (s.interruptEntry k).bus.apu.frameIrq = s.bus.apu.frameIrq) ∧
    (s.pc = 0x4015 → s.bus.params.platform = .nes → (s.interruptEntry k).bus.apu.frameIrq = false) ∧
    (s.bus.cart.quiet = true → (s.interruptEntry k).bus.cart.map.irq = s.bus.cart.map.irq))

/-- OAM DMA: oam_dma_stall cycles, the 256 bytes of the page into object memory (R94, R95, R96, R541). The stall's
defaults are log 25 (DESIGN CHOICE of the spec's defaults). Where in object memory a write of OAMDATA lands is
PRESUMED (log 11). -/
def Obligations.OamDmaCopiesPage : Prop :=
  ∀ (b : Bus) (page : Byte), b.params.platform = .nes →
    let align := if b.cycles % 2 = 0 then b.params.oamAlignEven else b.params.oamAlignOdd
    (b.oamDma page).cycles = b.cycles + 512 + align ∧
    (b.params = {} → (b.oamDma page).cycles = b.cycles + (if b.cycles % 2 = 0 then 513 else 514)) ∧
    (b.oamDma page).mem = b.mem ∧ (b.oamDma page).cart.rom = b.cart.rom ∧ (b.oamDma page).cart.work = b.cart.work ∧
    (b.cart.quiet = true → (b.oamDma page).cart = b.cart) ∧
    (b.oamDma page).dma = { b.dma with oam := none } ∧
    (∀ c : Nat → Bus, c 0 = Bus.idle align b →
      (∀ n, c (n + 1) = ((c n).read (concat page (BitVec.ofNat 8 n))).2.write 0x2004 ((c n).read (concat page (BitVec.ofNat 8 n))).1) →
      b.oamDma page = { c 256 with dma := { (c 256).dma with oam := none } } ∧
      ∀ i : Byte, Memory.byte (b.oamDma page).ppu.oam (b.ppu.oamAddr + i).toNat = ((c i.toNat).read (concat page i)).1) ∧
    (∀ (i v : Byte), b.storage (concat page i) = some v → b.still (concat page i) = true →
      Memory.byte (b.oamDma page).ppu.oam (b.ppu.oamAddr + i).toNat = v)

/-- A write to 0x4014 requests the OAM DMA; a step services it, then the DMC fetch (R46, R93, R95, R97, R523, R541).
0x4014 is write-only, so an RMW instruction reads open bus there (R87). The request as two fields is log 20; the DMC's
request itself is an input (log 21); the stall's default is log 25 (DESIGN CHOICE of the spec's default). -/
def Obligations.DmaRequestsAreServiced : Prop :=
  (∀ (b : Bus) (v : Byte), b.params.platform = .nes → (b.write 0x4014 v).dma = { b.dma with oam := some v }) ∧
  (∀ (e : EaMode) (r : Byte) (s : State), s.bus.params.platform = .nes → (resolve .rmw e s).1 = 0x4014 →
    rmwByte e s = (resolve .rmw e s).2.openBus ∧ (rmwBus e r s).dma = { s.bus.dma with oam := some r }) ∧
  (∀ s : State, s.bus.params.platform = .nes →
    ∃ t, exec (.staAbs 0x4014) s = .next t ∧ t.bus.dma = { s.bus.dma with oam := some s.a }) ∧
  (∀ s : State, s.bus.params.platform = .nes →
    ∃ t, exec (.incAbs 0x4014) s = .next t ∧ t.bus.dma = { s.bus.dma with oam := some (s.bus.openBus + 1) }) ∧
  (∀ s w : State, s.fatal = none → s.takeInputs.poll = .instruction →
    exec s.takeInputs.fetchInstr.1 s.takeInputs.fetchInstr.2 = .next w → w.fatal = none →
    (∀ page a, w.bus.dma = { oam := some page, dmc := some a } → step s = .next { w with bus := (w.bus.oamDma page).dmcDma a }) ∧
    (∀ page, w.bus.dma = { oam := some page, dmc := none } → step s = .next { w with bus := w.bus.oamDma page }) ∧
    (∀ a, w.bus.dma = { oam := none, dmc := some a } → step s = .next { w with bus := w.bus.dmcDma a }) ∧
    (w.bus.dma = {} → step s = .next w)) ∧
  (∀ (s : State) (page : Byte) (a : Addr), s.bus.dma = { oam := some page, dmc := some a } →
    s.serviceDma = { s with bus := (s.bus.oamDma page).dmcDma a }) ∧
  (∀ (b : Bus) (a : Addr),
    (b.dmcDma a).cycles = b.cycles + b.params.dmcIdle + 1 ∧ (b.params = {} → (b.dmcDma a).cycles = b.cycles + 4) ∧
    (b.dmcDma a).mem = b.mem ∧ (b.dmcDma a).cart.rom = b.cart.rom ∧ (b.dmcDma a).cart.work = b.cart.work ∧
    (b.dmcDma a).dma = { b.dma with dmc := none } ∧
    (b.dmcDma a).apu.sampleByte = ((Bus.idle b.params.dmcIdle b).read a).1 ∧
    (∀ v, b.storage a = some v → b.still a = true → (b.dmcDma a).apu.sampleByte = v)) ∧
  (∀ s : State, s.serviceDma.bus.dma = {})

/-- PPU registers: a write is in force at once or at a later boundary; what PPUSTATUS and PPUDATA reads return; PPUSCROLL
and PPUADDR share the latch (R85, R92, R426, R452, R523, R525). The low five bits of PPUSTATUS are free (log 10), as
are the byte PPUDATA's buffer takes and how far the address moves (log 12). Which writes are deferred, and to which
boundary up to the first dot of a frame, is free (log 28); that PPUADDR takes the high byte first is PRESUMED (log
13), and so is what a write of OAMDATA does (log 11); that one of PPUSTATUS does nothing is DEDUCED (log 15). -/
def Obligations.PpuStatusAndWriteLatch : Prop :=
  (∀ (b : Bus) (a : Addr) (v : Byte), b.params.platform = .nes → 0x2000 ≤ a.toNat → a.toNat < 0x4000 → ∃ d : Bool,
    let w : Latched Byte → Latched Byte := fun r => { written := v, inForce := if d then r.inForce else v, held := d }
    (a.toNat % 8 = 0 → (b.accessWrite a v).ppu = { b.ppu with ctrl := w b.ppu.ctrl } ∧ (b.write a v).ppu.ctrl.written = v ∧
      (b.accessWrite a v).nmiLevel = (b.ppu.vblank && v.getLsbD 7)) ∧
    (a.toNat % 8 = 1 → (b.accessWrite a v).ppu = { b.ppu with mask := w b.ppu.mask } ∧ (b.write a v).ppu.mask.written = v) ∧
    (a.toNat % 8 = 2 → (b.accessWrite a v).ppu = b.ppu) ∧
    (a.toNat % 8 = 3 → (b.accessWrite a v).ppu = { b.ppu with oamAddr := v } ∧ (b.write a v).ppu.oamAddr = v) ∧
    (a.toNat % 8 = 4 → ∃ o, (b.accessWrite a v).ppu = { b.ppu with oam := o, oamAddr := b.ppu.oamAddr + 1 } ∧
      ∀ k, Memory.byte o k = if k = b.ppu.oamAddr.toNat then v else Memory.byte b.ppu.oam k) ∧
    (a.toNat % 8 = 7 → ∃ k, (b.accessWrite a v).ppu = { b.ppu with vramAddr := { b.ppu.vramAddr with inForce := k } }) ∧
    (a.toNat % 8 = 5 → (b.accessWrite a v).ppu =
      if b.ppu.writeLatch = true then { b.ppu with scrollY := w b.ppu.scrollY, writeLatch := false }
      else { b.ppu with scrollX := w b.ppu.scrollX, writeLatch := true }) ∧
    (a.toNat % 8 = 6 → (b.accessWrite a v).ppu =
      if b.ppu.writeLatch = true then
        let k := concat b.ppu.addrFirst v
        { b.ppu with
          vramAddr := { written := k, inForce := if d then b.ppu.vramAddr.inForce else k, held := d }
          writeLatch := false }
      else { b.ppu with addrFirst := v, writeLatch := true }) ∧
    (a.toNat % 8 = 5 ∨ a.toNat % 8 = 6 → (b.write a v).ppu.writeLatch = !b.ppu.writeLatch)) ∧
  (∀ p : Ppu,
    (∀ r : Latched Byte × Latched Byte, r ∈ [(p.ctrl, p.advance.ctrl), (p.mask, p.advance.mask), (p.scrollX, p.advance.scrollX),
        (p.scrollY, p.advance.scrollY)] →
      r.2 = r.1 ∨ (r.1.held = true ∧ r.2 = { written := r.1.written, inForce := r.1.written, held := false })) ∧
    (p.advance.vramAddr = p.vramAddr ∨
      (p.vramAddr.held = true ∧
        p.advance.vramAddr = { written := p.vramAddr.written, inForce := p.vramAddr.written, held := false })) ∧
    (p.advance.scanline = 0 → p.advance.dot = 0 →
      p.advance.ctrl.held = false ∧ p.advance.mask.held = false ∧ p.advance.scrollX.held = false ∧
      p.advance.scrollY.held = false ∧ p.advance.vramAddr.held = false)) ∧
  (∀ (b : Bus) (a : Addr), b.params.platform = .nes → 0x2000 ≤ a.toNat → a.toNat < 0x4000 → a.toNat % 8 = 2 →
    (b.accessRead a).1.getLsbD 7 = b.ppu.vblank ∧ (b.accessRead a).1.getLsbD 6 = b.ppu.spriteZero ∧
    (b.accessRead a).1.getLsbD 5 = b.ppu.spriteOverflow ∧
    (b.accessRead a).2.ppu = { b.ppu with vblank := false, writeLatch := false }) ∧
  (∀ (b : Bus) (a : Addr), b.params.platform = .nes → 0x2000 ≤ a.toNat → a.toNat < 0x4000 → a.toNat % 8 = 7 →
    (b.read a).1 = b.ppu.readBuffer ∧
    ∃ w k, (b.accessRead a).2.ppu = { b.ppu with readBuffer := w, vramAddr := { b.ppu.vramAddr with inForce := k } }) ∧
  (∀ (b : Bus) (a : Addr), b.params.platform = .nes → 0x2000 ≤ a.toNat → a.toNat < 0x4000 → a.toNat % 8 ∈ [0, 1, 3, 4, 5, 6] →
    (b.accessRead a).2.ppu = b.ppu) ∧
  (∀ s : State, s.bus.params.platform = .nes →
    ∃ t, exec (.incAbs 0x2006) s = .next t ∧ t.bus.ppu.writeLatch = s.bus.ppu.writeLatch)

/-- A frame is 89,342 dots, vertical blank from (241, 1) to (261, 1) (R426, R451). Which dot an odd frame skips, and that
bits 3 and 4 of PPUMASK enable rendering, is PRESUMED (log 8); that a write of PPUMASK may be deferred into the frame
is log 28. -/
def Obligations.PpuFrameTiming : Prop :=
  ∀ p : Ppu, p.scanline = 0 → p.dot = 0 → p.vblank = false →
    let q := Ppu.advance^[89340] p
    let len := if p.oddFrame = true ∧ (q.mask.inForce.getLsbD 3 = true ∨ q.mask.inForce.getLsbD 4 = true) then 89341 else 89342
    (∀ n, n < len → (Ppu.advance^[n] p).scanline = n / 341 ∧ (Ppu.advance^[n] p).dot = n % 341 ∧
      (Ppu.advance^[n] p).vblank = decide (241 * 341 + 1 ≤ n ∧ n < 261 * 341 + 1) ∧
      (Ppu.advance^[n] p).oddFrame = p.oddFrame) ∧
    (Ppu.advance^[len] p).scanline = 0 ∧ (Ppu.advance^[len] p).dot = 0 ∧ (Ppu.advance^[len] p).vblank = false ∧
      (Ppu.advance^[len] p).oddFrame = !p.oddFrame ∧ (p.holds = false → q.mask = p.mask)

/-- No input writes a CPU register or storage; the reset signal, the button snapshots and the DMC request set what they
name (R88, R97, R104, R446, R503). That they are groups of events that land at a boundary, in order, is the model's
(log 5); what they may touch is R446's, and what the reset signal and the DMC's request set is R503's and R97's. That
the reset signal sets nothing but reset_pending, and so changes no register of the PPU, the APU, the controllers or
the mapper, is log 29 (DESIGN CHOICE): R503 leaves that to those blocks. The DMC's request as a field of its own is
log 20, its coming as an input log 21. -/
def Obligations.InputsLeaveTheCpuAlone : Prop :=
  (∀ s : State, s.takeInputs.a = s.a ∧ s.takeInputs.x = s.x ∧ s.takeInputs.y = s.y ∧ s.takeInputs.sp = s.sp ∧
    s.takeInputs.pc = s.pc ∧ s.takeInputs.flags = s.flags ∧ s.takeInputs.fatal = s.fatal ∧
    s.takeInputs.bus.cycles = s.bus.cycles ∧ s.takeInputs.bus.openBus = s.bus.openBus ∧
    s.takeInputs.bus.nmiPending = s.bus.nmiPending ∧
    s.takeInputs.bus.params = s.bus.params ∧ s.takeInputs.bus.mem = s.bus.mem ∧
    s.takeInputs.bus.cart.rom = s.bus.cart.rom ∧ s.takeInputs.bus.cart.work = s.bus.cart.work ∧
    ∀ a, s.takeInputs.bus.storage a = s.bus.storage a) ∧
  (∀ s : State, s.inputs = [] → s.takeInputs = s) ∧
  (∀ (s : State) (e : PlatformEvent) (rest : List (List PlatformEvent)), s.inputs = [e] :: rest →
    s.takeInputs = ({ s with inputs := rest } : State).applyEvent e) ∧
  (∀ (s : State) (g : List PlatformEvent) (rest : List (List PlatformEvent)), s.inputs = g :: rest →
    s.takeInputs.inputs = rest ∧ (.reset ∈ g → s.takeInputs.resetPending = true) ∧
    (.reset ∉ g → s.takeInputs.resetPending = s.resetPending)) ∧
  (∀ (s : State) (g : List PlatformEvent) (a : Addr) (rest : List (List PlatformEvent)),
    s.inputs = (g ++ [.dmcFetch a]) :: rest → s.takeInputs.bus.dma = { s.bus.dma with dmc := some a }) ∧
  (∀ (s : State) (a : Addr) (v : Byte),
    s.applyEvent .reset = { s with resetPending := true } ∧
    s.applyEvent (.dmcFetch a) = { s with bus := { s.bus with dma := { s.bus.dma with dmc := some a } } } ∧
    s.applyEvent (.buttons1 v) = { s with bus := { s.bus with pad1 := { s.bus.pad1 with buttons := v } } } ∧
    s.applyEvent (.buttons2 v) = { s with bus := { s.bus with pad2 := { s.bus.pad2 with buttons := v } } })

/-- A strobe latches the buttons; eight reads shift them out in bit 0 (R88). That A is bit 0 of the snapshot, and the
order of the rest, is PRESUMED (log 19). That a strobe latches at the write alone, so that reads shift while the bit
is still set and a write of it clear does nothing, is log 19 too. -/
def Obligations.ControllersShiftOutSnapshot : Prop :=
  (∀ (b : Bus) (v : Byte) (k : Nat), b.params.platform = .nes → v.getLsbD 0 = true → k < 8 →
    (((fun c : Bus => (c.read 0x4016).2)^[k] (b.write 0x4016 v)).read 0x4016).1.getLsbD 0 = b.pad1.buttons.getLsbD k ∧
    (((fun c : Bus => (c.read 0x4017).2)^[k] (b.write 0x4016 v)).read 0x4017).1.getLsbD 0 = b.pad2.buttons.getLsbD k) ∧
  (∀ (b : Bus) (v u : Byte) (k : Nat) (x y : Nat → Byte) (c d : Nat → Bus),
    b.params.platform = .nes → v.getLsbD 0 = true → u.getLsbD 0 = false → k < 8 →
    let snap : Bus → Nat → Bus := fun e n =>
      { e with pad1 := { e.pad1 with buttons := x n }, pad2 := { e.pad2 with buttons := y n } }
    let start := (snap (b.write 0x4016 v) 0).write 0x4016 u
    c 0 = start → (∀ n, c (n + 1) = snap ((c n).read 0x4016).2 (n + 1)) →
    d 0 = start → (∀ n, d (n + 1) = snap ((d n).read 0x4017).2 (n + 1)) →
    ((c k).read 0x4016).1.getLsbD 0 = b.pad1.buttons.getLsbD k ∧ ((d k).read 0x4017).1.getLsbD 0 = b.pad2.buttons.getLsbD k)

/-- The mapper: translation, bank selection by writes, and the transactions and ticks it sees (R104, R105, R454). The
three kinds of mapper, their bank registers, and the free values of a variant are log 4 (DESIGN CHOICE): R105 leaves
the formats to the variant. The second clause is the model's choice: R104 has the mapper translate to PRG ROM or PRG
RAM offsets and does not say how; that a window with `ram` set translates to PRG RAM, and that an offset past the size
of PRG RAM or PRG ROM is not driven, is log 3 (DESIGN CHOICE), and that the first window that covers an address
decides is log 4. The third clause is the testable property of R105 (T4 of 95_test_vectors.md). -/
def Obligations.MapperTranslatesAndObserves : Prop :=
  (∀ (b : Bus) (a : Addr), b.params.platform = .nes → 0x4020 ≤ a.toNat →
    (b.read a).1 = match prgTranslate b.cart.map.windows b.cart.info a with
      | some (.rom k) => Memory.byte b.cart.rom k
      | some (.ram k) => Memory.byte b.cart.work k
      | none => b.openBus) ∧
  (∀ (i : CartInfo) (a : Addr) (pre post : List PrgWindow) (w : PrgWindow),
    (∀ x ∈ pre, ¬ (x.first ≤ a.toNat ∧ a.toNat ≤ x.last)) →
    prgTranslate pre i a = none ∧
    (w.first ≤ a.toNat → a.toNat ≤ w.last →
      let k := w.offset + (a.toNat - w.first)
      prgTranslate (pre ++ w :: post) i a =
        if w.ram = true then (if k < i.ramSize then some (.ram k) else none) else (if k < i.romSize then some (.rom k) else none))) ∧
  (∀ (b : Bus) (a : Addr) (v : Byte) (rs ss : List BankRegister) (r : BankRegister) (pre post : List PrgWindow) (w : PrgWindow),
    b.params.platform = .nes → 0x4020 ≤ a.toNat → b.cart.mapper = .banked (rs ++ r :: ss) →
    (∀ q ∈ rs ++ ss, ¬ (q.first ≤ a.toNat ∧ a.toNat ≤ q.last)) → r.first ≤ a.toNat → a.toNat ≤ r.last →
    b.cart.map.windows = pre ++ w :: post → pre.length = r.window → w.ram = false →
    (b.write a v).cart.map.windows = pre ++ { w with offset := v.toNat % r.count * r.size } :: post ∧
    (∀ k : Addr, 0x4020 ≤ k.toNat → (∀ x ∈ pre, ¬ (x.first ≤ k.toNat ∧ k.toNat ≤ x.last)) → w.first ≤ k.toNat → k.toNat ≤ w.last →
      v.toNat % r.count * r.size + (k.toNat - w.first) < b.cart.info.romSize →
      let m := Memory.byte b.cart.rom (v.toNat % r.count * r.size + (k.toNat - w.first))
      ((b.write a v).read k).1 = m ∧ ((b.write a v).dmcDma k).apu.sampleByte = m)) ∧
  (∀ (b : Bus) (a : Addr), (b.read a).2.cart =
    (b.cart.observe false a (b.read a).1).tick b.ppu.scanline b.ppu.dot b.ppu.rendering) ∧
  (∀ (b : Bus) (a : Addr) (v : Byte),
    let c := if b.region a = .cart then b.cart.cpuWrite a v else b.cart
    let p := (b.accessWrite a v).ppu
    (b.write a v).cart = (c.observe true a v).tick p.scanline p.dot p.rendering) ∧
  (∀ (c : Cartridge) (a : Addr) (v : Byte) (w r : Bool) (m n : Nat),
    (c.observe w a v).map.windows = c.map.windows ∧
    (c.mapper ≠ .variant → c.observe w a v = c ∧ c.tick m n r = c) ∧
    (c.mapper = .fixed → (c.cpuWrite a v).map = c.map) ∧
    (c.mapper = .variant → (c.cpuWrite a v).map = Config.mapperWrite c.info c.map a v ∧
      (c.tick m n r).map = Config.mapperTick c.info c.map m n r ∧
      (c.observe w a v).map.irq = (Config.mapperObserve c.info c.map w a v).irq))

end
end

