-- ==== Sys2Proof/Laws/Memory.lean ====
section
/-! SUPPORT. The laws of storage: a read after a write, and the canonical form, which every operation keeps. -/

namespace Sys2Proof.Machine

theorem Memory.lookup_put_same (m : Memory) (a : Nat) (v : Byte) : Memory.lookup (Memory.put m a v) a = some v := by
  induction m with
  | nil => simp [Memory.put, Memory.lookup]
  | cons c m ih =>
    obtain ⟨k, w⟩ := c
    simp only [Memory.put]
    split
    · simp [Memory.lookup]
    · split
      · simp [Memory.lookup]
      · simp [Memory.lookup, ih]
        omega

theorem Memory.lookup_put_other (m : Memory) {a k : Nat} (v : Byte) (h : k ≠ a) :
    Memory.lookup (Memory.put m a v) k = Memory.lookup m k := by
  induction m with
  | nil => simp [Memory.put, Memory.lookup, Ne.symm h]
  | cons c m ih =>
    obtain ⟨k', w⟩ := c
    simp only [Memory.put]
    split
    · simp [Memory.lookup, Ne.symm h]
    · split
      · subst a; simp [Memory.lookup, Ne.symm h]
      · simp [Memory.lookup, ih]

theorem Memory.lookup_drop_same (m : Memory) (a : Nat) : Memory.lookup (Memory.drop m a) a = none := by
  induction m with
  | nil => rfl
  | cons c m ih =>
    obtain ⟨k, w⟩ := c
    by_cases h : k = a
    · simpa [Memory.drop, h] using ih
    · simpa [Memory.drop, Memory.lookup, h] using ih

theorem Memory.lookup_drop_other (m : Memory) {a k : Nat} (h : k ≠ a) :
    Memory.lookup (Memory.drop m a) k = Memory.lookup m k := by
  induction m with
  | nil => rfl
  | cons c m ih =>
    obtain ⟨k', w⟩ := c
    by_cases h' : k' = a
    · subst h'; simpa [Memory.drop, Memory.lookup, Ne.symm h] using ih
    · simp only [Memory.drop, bne_iff_ne, ne_eq, h', not_false_eq_true, List.filter_cons_of_pos, Memory.lookup] at ih ⊢
      split <;> simp_all

/-- A read after a write to the same cell gives the byte written. -/
@[simp] theorem Memory.byte_write_same (m : Memory) (a : Nat) (v : Byte) : Memory.byte (Memory.write m a v) a = v := by
  unfold Memory.byte Memory.write
  split
  · next h => simp [Memory.lookup_drop_same, h]
  · simp [Memory.lookup_put_same]

/-- A write leaves every other cell alone. -/
theorem Memory.byte_write_other (m : Memory) {a k : Nat} (v : Byte) (h : k ≠ a) :
    Memory.byte (Memory.write m a v) k = Memory.byte m k := by
  unfold Memory.byte Memory.write
  split
  · rw [Memory.lookup_drop_other m h]
  · rw [Memory.lookup_put_other m v h]

/-! ### The canonical form -/

theorem Memory.rising_iff (m : Memory) : Memory.rising m = true ↔ m.Pairwise (fun c d => c.1 < d.1) := by
  induction m with
  | nil => simp [Memory.rising]
  | cons c m ih => obtain ⟨k, w⟩ := c; simp [Memory.rising, ih]

theorem Memory.mem_put {m : Memory} {a : Nat} {v : Byte} {c : Host.Cell} (h : c ∈ Memory.put m a v) : c = (a, v) ∨ c ∈ m := by
  induction m with
  | nil => simpa [Memory.put] using h
  | cons d m ih =>
    obtain ⟨k, w⟩ := d
    simp only [Memory.put] at h
    split at h
    · simpa using h
    · split at h
      · rcases List.mem_cons.mp h with h | h
        · exact .inl h
        · exact .inr (List.mem_cons_of_mem _ h)
      · rcases List.mem_cons.mp h with h | h
        · exact .inr (h ▸ List.mem_cons_self)
        · rcases ih h with h | h
          · exact .inl h
          · exact .inr (List.mem_cons_of_mem _ h)

theorem Memory.rising_put {m : Memory} (a : Nat) (v : Byte) (h : Memory.rising m = true) :
    Memory.rising (Memory.put m a v) = true := by
  rw [Memory.rising_iff] at *
  induction m with
  | nil => simp [Memory.put]
  | cons c m ih =>
    obtain ⟨k, w⟩ := c
    obtain ⟨h1, h2⟩ := List.pairwise_cons.mp h
    simp only [Memory.put]
    split
    · next hlt =>
      refine List.pairwise_cons.mpr ⟨fun c hc => ?_, h⟩
      rcases List.mem_cons.mp hc with rfl | hc
      · exact hlt
      · exact hlt.trans (h1 c hc)
    · split
      · next he => subst he; exact List.pairwise_cons.mpr ⟨h1, h2⟩
      · next hn he =>
        refine List.pairwise_cons.mpr ⟨fun c hc => ?_, ih h2⟩
        rcases Memory.mem_put hc with rfl | hc
        · exact Nat.lt_of_le_of_ne (Nat.not_lt.mp hn) (fun e => he e.symm)
        · exact h1 c hc

theorem Memory.rising_drop {m : Memory} (a : Nat) (h : Memory.rising m = true) : Memory.rising (Memory.drop m a) = true := by
  rw [Memory.rising_iff] at *
  exact h.filter _

theorem Memory.wf_iff (m : Memory) :
    Memory.wf m = true ↔ Memory.rising m = true ∧ ∀ c ∈ m, c.2 ≠ Memory.unlisted := by
  simp [Memory.wf, List.all_eq_true]

/-- Taking an entry away keeps the canonical form. -/
theorem Memory.wf_drop {m : Memory} (a : Nat) (h : Memory.wf m = true) : Memory.wf (Memory.drop m a) = true := by
  rw [Memory.wf_iff] at *
  exact ⟨Memory.rising_drop a h.1, fun c hc => h.2 c (List.mem_filter.mp hc).1⟩

/-- A write keeps the canonical form. -/
theorem Memory.wf_write {m : Memory} (a : Nat) (v : Byte) (h : Memory.wf m = true) : Memory.wf (Memory.write m a v) = true := by
  unfold Memory.write
  split
  · exact Memory.wf_drop a h
  · next hv =>
    rw [Memory.wf_iff] at *
    refine ⟨Memory.rising_put a v h.1, fun c hc => ?_⟩
    rcases Memory.mem_put hc with rfl | hc
    · exact hv
    · exact h.2 c hc

/-- Every entry of a write is the new one or an old one. -/
theorem Memory.mem_write {m : Memory} {a : Nat} {v : Byte} {c : Host.Cell} (h : c ∈ Memory.write m a v) : c = (a, v) ∨ c ∈ m := by
  unfold Memory.write at h
  split at h
  · exact .inr (List.mem_filter.mp h).1
  · exact Memory.mem_put h

end Sys2Proof.Machine
end

