-- ==== Sys2Proof/Laws/Cartridge.lean ====
section
/-! SUPPORT. What the mapper can do: its translation, a write, an observation, a tick (20_memory.md R104, 60_exceptions.md R454). -/

namespace Sys2Proof.Machine

/-- Translation is a function of the bank-select state and of what the cartridge has (R104). -/
theorem Cartridge.target_congr {c d : Cartridge} (hm : d.map = c.map) (hi : d.info = c.info) (a : Addr) :
    d.target a = c.target a := by simp [Cartridge.target, hm, hi]

/-- A cell of PRG RAM that an address translates to is one the cartridge has. -/
theorem Cartridge.target_ram_lt {c : Cartridge} {a : Addr} {k : Nat} (h : c.target a = some (.ram k)) : k < c.info.ramSize := by
  unfold Cartridge.target prgTranslate at h
  cases hf : c.map.windows.find? (fun w => inWindow w a) with
  | none => simp [hf] at h
  | some w =>
    simp only [hf, Option.bind_some, windowCell] at h
    split at h <;> split at h <;> simp_all

/-- Two addresses translated to one cell read the same byte. -/
theorem Cartridge.cpuRead_congr {c d : Cartridge} {a : Addr} (ht : d.target a = c.target a) (hr : d.rom = c.rom)
    (hw : d.work = c.work) : d.cpuRead a = c.cpuRead a := by
  have : d.byte = c.byte := by funext k; cases k <;> simp [Cartridge.byte, hr, hw]
  simp [Cartridge.cpuRead, ht, this]

theorem inWindow_iff {w : PrgWindow} {a : Addr} : inWindow w a = true ↔ w.first ≤ a.toNat ∧ a.toNat ≤ w.last := by
  simp [inWindow]

theorem inRegister_iff {r : BankRegister} {a : Addr} : inRegister r a = true ↔ r.first ≤ a.toNat ∧ a.toNat ≤ r.last := by
  simp [inRegister]

/-- Windows that do not cover an address decide nothing there. -/
theorem prgTranslate_skip {pre : List PrgWindow} {a : Addr} (h : ∀ x ∈ pre, inWindow x a = false) (i : CartInfo)
    (l : List PrgWindow) : prgTranslate (pre ++ l) i a = prgTranslate l i a := by
  have : pre.find? (fun w => inWindow w a) = none := by
    rw [List.find?_eq_none]
    intro x hx
    simp [h x hx]
  simp [prgTranslate, List.find?_append, this]

/-- The first window that covers an address decides. -/
theorem prgTranslate_hit {w : PrgWindow} {a : Addr} (h : inWindow w a = true) (i : CartInfo) (l : List PrgWindow) :
    prgTranslate (w :: l) i a = windowCell w i a := by
  simp [prgTranslate, h]

/-! ### Ticks and observations -/

theorem Cartridge.tick_keeps (c : Cartridge) (m n : Nat) (r : Bool) :
    (c.tick m n r).info = c.info ∧ (c.tick m n r).mapper = c.mapper ∧ (c.tick m n r).rom = c.rom ∧
    (c.tick m n r).work = c.work ∧ (c.quiet = true → c.tick m n r = c) := by
  unfold Cartridge.tick Cartridge.quiet
  split <;> simp [*]

theorem Cartridge.observe_keeps (c : Cartridge) (w : Bool) (a : Addr) (v : Byte) :
    (c.observe w a v).info = c.info ∧ (c.observe w a v).mapper = c.mapper ∧ (c.observe w a v).rom = c.rom ∧
    (c.observe w a v).work = c.work ∧ (c.quiet = true → c.observe w a v = c) := by
  unfold Cartridge.observe Cartridge.quiet
  split <;> simp [*]

/-- An observation changes no bank (R104). -/
theorem Cartridge.observe_windows (c : Cartridge) (w : Bool) (a : Addr) (v : Byte) :
    (c.observe w a v).map.windows = c.map.windows := by
  unfold Cartridge.observe
  split <;> rfl

/-! ### Writes -/

theorem Cartridge.store_frame (c : Cartridge) (a : Addr) (v : Byte) :
    (c.store a v).info = c.info ∧ (c.store a v).mapper = c.mapper ∧ (c.store a v).rom = c.rom ∧ (c.store a v).map = c.map := by
  unfold Cartridge.store
  split <;> simp

/-- A write changes PRG RAM and the mapper's state, and nothing else. -/
theorem Cartridge.cpuWrite_frame (c : Cartridge) (a : Addr) (v : Byte) :
    (c.cpuWrite a v).info = c.info ∧ (c.cpuWrite a v).mapper = c.mapper ∧ (c.cpuWrite a v).rom = c.rom ∧
    (c.cpuWrite a v).work = (c.store a v).work ∧ (c.cpuWrite a v).map = c.afterWrite a v := by
  simp [Cartridge.cpuWrite, Cartridge.store_frame]

theorem selectBanks_append (rs ss : List BankRegister) (a : Addr) (v : Byte) (ws : List PrgWindow) :
    selectBanks (rs ++ ss) a v ws = selectBanks ss a v (selectBanks rs a v ws) := by
  simp [selectBanks, List.foldl_append]

/-- A bank-select register changes the window of its index and no other. -/
theorem selectBank_at {r : BankRegister} {pre post : List PrgWindow} (w : PrgWindow) (v : Byte) (h : pre.length = r.window) :
    selectBank r v (pre ++ w :: post) = pre ++ { w with offset := v.toNat % r.count * r.size } :: post := by
  unfold selectBank
  rw [← h]
  generalize v.toNat % r.count * r.size = k
  clear h
  induction pre with
  | nil => rfl
  | cons x pre ih => simpa using ih

/-- Where no bank-select register answers, a write leaves the windows alone. -/
theorem selectBanks_none {rs : List BankRegister} {a : Addr} (v : Byte) (ws : List PrgWindow)
    (h : rs.any (fun r => inRegister r a) = false) : selectBanks rs a v ws = ws := by
  unfold selectBanks
  induction rs generalizing ws with
  | nil => rfl
  | cons r rs ih =>
    simp only [List.any_cons, Bool.or_eq_false_iff] at h
    simp [h.1, ih ws h.2]

/-- A write of an address that selects nothing leaves the mapper's state alone. -/
theorem Cartridge.afterWrite_eq {c : Cartridge} {a : Addr} (v : Byte) (h : c.selects a = false) : c.afterWrite a v = c.map := by
  unfold Cartridge.selects at h
  unfold Cartridge.afterWrite
  split
  · rfl
  · next rs hm => rw [hm] at h; simp [selectBanks_none v _ h]
  · next hm => rw [hm] at h; simp at h

/-- A write changes the byte of no address translated to another cell. -/
theorem Cartridge.store_other {c : Cartridge} {a k : Addr} (v : Byte)
    (h : ∀ n, c.target a = some (.ram n) → c.target k ≠ some (.ram n)) : (c.store a v).cpuRead k = c.cpuRead k := by
  have ht : (c.store a v).target k = c.target k :=
    Cartridge.target_congr (c.store_frame a v).2.2.2 (c.store_frame a v).1 k
  unfold Cartridge.cpuRead
  rw [ht]
  unfold Cartridge.store
  split
  · next n hn =>
    cases hk : c.target k with
    | none => rfl
    | some q =>
      cases q with
      | rom m => rfl
      | ram m =>
        have : m ≠ n := fun e => h n hn (by rw [hk, e])
        simp [Cartridge.byte, Memory.byte_write_other c.work v this]
  · rfl
  · rfl

/-- PRG RAM reads back what was written. -/
theorem Cartridge.store_same {c : Cartridge} {a k : Addr} {n : Nat} (v : Byte) (ha : c.target a = some (.ram n))
    (hk : c.target k = some (.ram n)) : (c.store a v).cpuRead k = some v := by
  have ht : (c.store a v).target k = c.target k :=
    Cartridge.target_congr (c.store_frame a v).2.2.2 (c.store_frame a v).1 k
  unfold Cartridge.cpuRead
  rw [ht, hk]
  simp [Cartridge.store, ha, Cartridge.byte]

/-- A write that selects no bank stores and does nothing else. -/
theorem Cartridge.cpuWrite_eq_store {c : Cartridge} {a : Addr} (v : Byte) (h : c.selects a = false) :
    c.cpuWrite a v = c.store a v := by
  simp only [Cartridge.cpuWrite, Cartridge.afterWrite_eq v h, ← (c.store_frame a v).2.2.2]

theorem Cartridge.quiet_congr {c d : Cartridge} (h : d.mapper = c.mapper) : d.quiet = c.quiet := by simp [Cartridge.quiet, h]

theorem Cartridge.selects_congr {c d : Cartridge} (h : d.mapper = c.mapper) (a : Addr) : d.selects a = c.selects a := by
  simp [Cartridge.selects, h]

end Sys2Proof.Machine
end

