-- ==== Sys2Proof/Laws/State.lean ====
section
/-! SUPPORT. One lemma for each field of each update of the state, true by definition. -/

namespace Sys2Proof.Machine

@[simp] theorem Bus.tickPlatform_params (b : Bus) : (b.tickPlatform).params = b.params := by simp only [Bus.tickPlatform]
@[simp] theorem Bus.tickPlatform_mem (b : Bus) : (b.tickPlatform).mem = b.mem := by simp only [Bus.tickPlatform]
@[simp] theorem Bus.tickPlatform_openBus (b : Bus) : (b.tickPlatform).openBus = b.openBus := by simp only [Bus.tickPlatform]
@[simp] theorem Bus.tickPlatform_cycles (b : Bus) : (b.tickPlatform).cycles = b.cycles := by simp only [Bus.tickPlatform]
@[simp] theorem Bus.tickPlatform_nmiPending (b : Bus) : (b.tickPlatform).nmiPending = b.nmiPending := by simp only [Bus.tickPlatform]
@[simp] theorem Bus.tickPlatform_nmiLinePrev (b : Bus) : (b.tickPlatform).nmiLinePrev = b.nmiLinePrev := by simp only [Bus.tickPlatform]
@[simp] theorem Bus.tickPlatform_dma (b : Bus) : (b.tickPlatform).dma = b.dma := by simp only [Bus.tickPlatform]
@[simp] theorem Bus.tickPlatform_ppu (b : Bus) : (b.tickPlatform).ppu = b.ppu.advance.advance.advance := by simp only [Bus.tickPlatform]
@[simp] theorem Bus.tickPlatform_apu (b : Bus) : (b.tickPlatform).apu = { b.apu with clock := b.apu.clock + 1 } := by simp only [Bus.tickPlatform]
@[simp] theorem Bus.tickPlatform_pad1 (b : Bus) : (b.tickPlatform).pad1 = b.pad1 := by simp only [Bus.tickPlatform]
@[simp] theorem Bus.tickPlatform_pad2 (b : Bus) : (b.tickPlatform).pad2 = b.pad2 := by simp only [Bus.tickPlatform]
@[simp] theorem Bus.tickPlatform_cart (b : Bus) : (b.tickPlatform).cart = b.cart.tick b.ppu.scanline b.ppu.dot b.ppu.rendering := by simp only [Bus.tickPlatform]
@[simp] theorem Bus.tickPlatform_freeCount (b : Bus) : (b.tickPlatform).freeCount = b.freeCount := by simp only [Bus.tickPlatform]

@[simp] theorem Bus.sampleNmi_params (b : Bus) : (b.sampleNmi).params = b.params := by simp only [Bus.sampleNmi]
@[simp] theorem Bus.sampleNmi_mem (b : Bus) : (b.sampleNmi).mem = b.mem := by simp only [Bus.sampleNmi]
@[simp] theorem Bus.sampleNmi_openBus (b : Bus) : (b.sampleNmi).openBus = b.openBus := by simp only [Bus.sampleNmi]
@[simp] theorem Bus.sampleNmi_cycles (b : Bus) : (b.sampleNmi).cycles = b.cycles := by simp only [Bus.sampleNmi]
@[simp] theorem Bus.sampleNmi_nmiPending (b : Bus) : (b.sampleNmi).nmiPending = (b.nmiPending || (b.nmiLevel && !b.nmiLinePrev)) := by simp only [Bus.sampleNmi]
@[simp] theorem Bus.sampleNmi_nmiLinePrev (b : Bus) : (b.sampleNmi).nmiLinePrev = b.nmiLevel := by simp only [Bus.sampleNmi]
@[simp] theorem Bus.sampleNmi_dma (b : Bus) : (b.sampleNmi).dma = b.dma := by simp only [Bus.sampleNmi]
@[simp] theorem Bus.sampleNmi_ppu (b : Bus) : (b.sampleNmi).ppu = b.ppu := by simp only [Bus.sampleNmi]
@[simp] theorem Bus.sampleNmi_apu (b : Bus) : (b.sampleNmi).apu = b.apu := by simp only [Bus.sampleNmi]
@[simp] theorem Bus.sampleNmi_pad1 (b : Bus) : (b.sampleNmi).pad1 = b.pad1 := by simp only [Bus.sampleNmi]
@[simp] theorem Bus.sampleNmi_pad2 (b : Bus) : (b.sampleNmi).pad2 = b.pad2 := by simp only [Bus.sampleNmi]
@[simp] theorem Bus.sampleNmi_cart (b : Bus) : (b.sampleNmi).cart = b.cart := by simp only [Bus.sampleNmi]
@[simp] theorem Bus.sampleNmi_freeCount (b : Bus) : (b.sampleNmi).freeCount = b.freeCount := by simp only [Bus.sampleNmi]

/-- The NMI level a bus samples in its tick. -/
@[simp] theorem Bus.tickPlatform_nmiLevel (b : Bus) : b.tickPlatform.nmiLevel = (decide (b.params.platform = .nes) && b.ppu.advance.advance.advance.nmiLevel) := by
  simp only [Bus.nmiLevel, Bus.tickPlatform_params, Bus.tickPlatform_ppu]

@[simp] theorem Bus.tick_params (b : Bus) : (b.tick).params = b.params := by simp only [Bus.tick, Bus.sampleNmi_params, Bus.tickPlatform_params]
@[simp] theorem Bus.tick_mem (b : Bus) : (b.tick).mem = b.mem := by simp only [Bus.tick, Bus.sampleNmi_mem, Bus.tickPlatform_mem]
@[simp] theorem Bus.tick_openBus (b : Bus) : (b.tick).openBus = b.openBus := by simp only [Bus.tick, Bus.sampleNmi_openBus, Bus.tickPlatform_openBus]
@[simp] theorem Bus.tick_cycles (b : Bus) : (b.tick).cycles = b.cycles + 1 := by simp only [Bus.tick, Bus.sampleNmi_cycles, Bus.tickPlatform_cycles]
@[simp] theorem Bus.tick_nmiPending (b : Bus) : (b.tick).nmiPending = (b.nmiPending || (b.tickPlatform.nmiLevel && !b.nmiLinePrev)) := by simp only [Bus.tick, Bus.sampleNmi, Bus.tickPlatform_nmiPending, Bus.tickPlatform_nmiLinePrev]
@[simp] theorem Bus.tick_nmiLinePrev (b : Bus) : (b.tick).nmiLinePrev = b.tickPlatform.nmiLevel := by simp only [Bus.tick, Bus.sampleNmi, Bus.tickPlatform_nmiPending, Bus.tickPlatform_nmiLinePrev]
@[simp] theorem Bus.tick_dma (b : Bus) : (b.tick).dma = b.dma := by simp only [Bus.tick, Bus.sampleNmi_dma, Bus.tickPlatform_dma]
@[simp] theorem Bus.tick_ppu (b : Bus) : (b.tick).ppu = b.ppu.advance.advance.advance := by simp only [Bus.tick, Bus.sampleNmi_ppu, Bus.tickPlatform_ppu]
@[simp] theorem Bus.tick_apu (b : Bus) : (b.tick).apu = { b.apu with clock := b.apu.clock + 1 } := by simp only [Bus.tick, Bus.sampleNmi_apu, Bus.tickPlatform_apu]
@[simp] theorem Bus.tick_pad1 (b : Bus) : (b.tick).pad1 = b.pad1 := by simp only [Bus.tick, Bus.sampleNmi_pad1, Bus.tickPlatform_pad1]
@[simp] theorem Bus.tick_pad2 (b : Bus) : (b.tick).pad2 = b.pad2 := by simp only [Bus.tick, Bus.sampleNmi_pad2, Bus.tickPlatform_pad2]
@[simp] theorem Bus.tick_cart (b : Bus) : (b.tick).cart = b.cart.tick b.ppu.scanline b.ppu.dot b.ppu.rendering := by simp only [Bus.tick, Bus.sampleNmi_cart, Bus.tickPlatform_cart]
@[simp] theorem Bus.tick_freeCount (b : Bus) : (b.tick).freeCount = b.freeCount := by simp only [Bus.tick, Bus.sampleNmi_freeCount, Bus.tickPlatform_freeCount]

@[simp] theorem Bus.tick_nmiLevel (b : Bus) : b.tick.nmiLevel = b.tickPlatform.nmiLevel := by
  simp only [Bus.nmiLevel, Bus.tick_params, Bus.tick_ppu, Bus.tickPlatform_params, Bus.tickPlatform_ppu]

@[simp] theorem Bus.drive_params (b : Bus) (v : Byte) : (b.drive v).params = b.params := rfl
@[simp] theorem Bus.drive_mem (b : Bus) (v : Byte) : (b.drive v).mem = b.mem := rfl
@[simp] theorem Bus.drive_openBus (b : Bus) (v : Byte) : (b.drive v).openBus = v := rfl
@[simp] theorem Bus.drive_cycles (b : Bus) (v : Byte) : (b.drive v).cycles = b.cycles := rfl
@[simp] theorem Bus.drive_nmiPending (b : Bus) (v : Byte) : (b.drive v).nmiPending = b.nmiPending := rfl
@[simp] theorem Bus.drive_nmiLinePrev (b : Bus) (v : Byte) : (b.drive v).nmiLinePrev = b.nmiLinePrev := rfl
@[simp] theorem Bus.drive_dma (b : Bus) (v : Byte) : (b.drive v).dma = b.dma := rfl
@[simp] theorem Bus.drive_ppu (b : Bus) (v : Byte) : (b.drive v).ppu = b.ppu := rfl
@[simp] theorem Bus.drive_apu (b : Bus) (v : Byte) : (b.drive v).apu = b.apu := rfl
@[simp] theorem Bus.drive_pad1 (b : Bus) (v : Byte) : (b.drive v).pad1 = b.pad1 := rfl
@[simp] theorem Bus.drive_pad2 (b : Bus) (v : Byte) : (b.drive v).pad2 = b.pad2 := rfl
@[simp] theorem Bus.drive_cart (b : Bus) (v : Byte) : (b.drive v).cart = b.cart := rfl
@[simp] theorem Bus.drive_freeCount (b : Bus) (v : Byte) : (b.drive v).freeCount = b.freeCount := rfl

@[simp] theorem Bus.drawByte_params (b : Bus) : (b.drawByte.2).params = b.params := rfl
@[simp] theorem Bus.drawByte_mem (b : Bus) : (b.drawByte.2).mem = b.mem := rfl
@[simp] theorem Bus.drawByte_openBus (b : Bus) : (b.drawByte.2).openBus = b.openBus := rfl
@[simp] theorem Bus.drawByte_cycles (b : Bus) : (b.drawByte.2).cycles = b.cycles := rfl
@[simp] theorem Bus.drawByte_nmiPending (b : Bus) : (b.drawByte.2).nmiPending = b.nmiPending := rfl
@[simp] theorem Bus.drawByte_nmiLinePrev (b : Bus) : (b.drawByte.2).nmiLinePrev = b.nmiLinePrev := rfl
@[simp] theorem Bus.drawByte_dma (b : Bus) : (b.drawByte.2).dma = b.dma := rfl
@[simp] theorem Bus.drawByte_ppu (b : Bus) : (b.drawByte.2).ppu = b.ppu := rfl
@[simp] theorem Bus.drawByte_apu (b : Bus) : (b.drawByte.2).apu = b.apu := rfl
@[simp] theorem Bus.drawByte_pad1 (b : Bus) : (b.drawByte.2).pad1 = b.pad1 := rfl
@[simp] theorem Bus.drawByte_pad2 (b : Bus) : (b.drawByte.2).pad2 = b.pad2 := rfl
@[simp] theorem Bus.drawByte_cart (b : Bus) : (b.drawByte.2).cart = b.cart := rfl
@[simp] theorem Bus.drawByte_freeCount (b : Bus) : (b.drawByte.2).freeCount = b.freeCount + 1 := rfl

@[simp] theorem Bus.observe_params (b : Bus) (w : Bool) (a : Addr) (v : Byte) : (b.observe w a v).params = b.params := rfl
@[simp] theorem Bus.observe_mem (b : Bus) (w : Bool) (a : Addr) (v : Byte) : (b.observe w a v).mem = b.mem := rfl
@[simp] theorem Bus.observe_openBus (b : Bus) (w : Bool) (a : Addr) (v : Byte) : (b.observe w a v).openBus = b.openBus := rfl
@[simp] theorem Bus.observe_cycles (b : Bus) (w : Bool) (a : Addr) (v : Byte) : (b.observe w a v).cycles = b.cycles := rfl
@[simp] theorem Bus.observe_nmiPending (b : Bus) (w : Bool) (a : Addr) (v : Byte) : (b.observe w a v).nmiPending = b.nmiPending := rfl
@[simp] theorem Bus.observe_nmiLinePrev (b : Bus) (w : Bool) (a : Addr) (v : Byte) : (b.observe w a v).nmiLinePrev = b.nmiLinePrev := rfl
@[simp] theorem Bus.observe_dma (b : Bus) (w : Bool) (a : Addr) (v : Byte) : (b.observe w a v).dma = b.dma := rfl
@[simp] theorem Bus.observe_ppu (b : Bus) (w : Bool) (a : Addr) (v : Byte) : (b.observe w a v).ppu = b.ppu := rfl
@[simp] theorem Bus.observe_apu (b : Bus) (w : Bool) (a : Addr) (v : Byte) : (b.observe w a v).apu = b.apu := rfl
@[simp] theorem Bus.observe_pad1 (b : Bus) (w : Bool) (a : Addr) (v : Byte) : (b.observe w a v).pad1 = b.pad1 := rfl
@[simp] theorem Bus.observe_pad2 (b : Bus) (w : Bool) (a : Addr) (v : Byte) : (b.observe w a v).pad2 = b.pad2 := rfl
@[simp] theorem Bus.observe_cart (b : Bus) (w : Bool) (a : Addr) (v : Byte) : (b.observe w a v).cart = b.cart.observe w a v := rfl
@[simp] theorem Bus.observe_freeCount (b : Bus) (w : Bool) (a : Addr) (v : Byte) : (b.observe w a v).freeCount = b.freeCount := rfl

@[simp] theorem State.dummyRead_a (s : State) (a : Addr) : (s.dummyRead a).a = s.a := rfl
@[simp] theorem State.dummyRead_x (s : State) (a : Addr) : (s.dummyRead a).x = s.x := rfl
@[simp] theorem State.dummyRead_y (s : State) (a : Addr) : (s.dummyRead a).y = s.y := rfl
@[simp] theorem State.dummyRead_sp (s : State) (a : Addr) : (s.dummyRead a).sp = s.sp := rfl
@[simp] theorem State.dummyRead_pc (s : State) (a : Addr) : (s.dummyRead a).pc = s.pc := rfl
@[simp] theorem State.dummyRead_flags (s : State) (a : Addr) : (s.dummyRead a).flags = s.flags := rfl
@[simp] theorem State.dummyRead_resetPending (s : State) (a : Addr) : (s.dummyRead a).resetPending = s.resetPending := rfl
@[simp] theorem State.dummyRead_fatal (s : State) (a : Addr) : (s.dummyRead a).fatal = s.fatal := rfl
@[simp] theorem State.dummyRead_inputs (s : State) (a : Addr) : (s.dummyRead a).inputs = s.inputs := rfl
@[simp] theorem State.dummyRead_bus (s : State) (a : Addr) : (s.dummyRead a).bus = s.bus.dummyRead a := rfl

@[simp] theorem State.write_a (s : State) (a : Addr) (v : Byte) : (s.write a v).a = s.a := rfl
@[simp] theorem State.write_x (s : State) (a : Addr) (v : Byte) : (s.write a v).x = s.x := rfl
@[simp] theorem State.write_y (s : State) (a : Addr) (v : Byte) : (s.write a v).y = s.y := rfl
@[simp] theorem State.write_sp (s : State) (a : Addr) (v : Byte) : (s.write a v).sp = s.sp := rfl
@[simp] theorem State.write_pc (s : State) (a : Addr) (v : Byte) : (s.write a v).pc = s.pc := rfl
@[simp] theorem State.write_flags (s : State) (a : Addr) (v : Byte) : (s.write a v).flags = s.flags := rfl
@[simp] theorem State.write_resetPending (s : State) (a : Addr) (v : Byte) : (s.write a v).resetPending = s.resetPending := rfl
@[simp] theorem State.write_fatal (s : State) (a : Addr) (v : Byte) : (s.write a v).fatal = s.fatal := rfl
@[simp] theorem State.write_inputs (s : State) (a : Addr) (v : Byte) : (s.write a v).inputs = s.inputs := rfl
@[simp] theorem State.write_bus (s : State) (a : Addr) (v : Byte) : (s.write a v).bus = s.bus.write a v := rfl

@[simp] theorem State.dummyFetch_a (s : State) : (s.dummyFetch).a = s.a := rfl
@[simp] theorem State.dummyFetch_x (s : State) : (s.dummyFetch).x = s.x := rfl
@[simp] theorem State.dummyFetch_y (s : State) : (s.dummyFetch).y = s.y := rfl
@[simp] theorem State.dummyFetch_sp (s : State) : (s.dummyFetch).sp = s.sp := rfl
@[simp] theorem State.dummyFetch_pc (s : State) : (s.dummyFetch).pc = s.pc := rfl
@[simp] theorem State.dummyFetch_flags (s : State) : (s.dummyFetch).flags = s.flags := rfl
@[simp] theorem State.dummyFetch_resetPending (s : State) : (s.dummyFetch).resetPending = s.resetPending := rfl
@[simp] theorem State.dummyFetch_fatal (s : State) : (s.dummyFetch).fatal = s.fatal := rfl
@[simp] theorem State.dummyFetch_inputs (s : State) : (s.dummyFetch).inputs = s.inputs := rfl
@[simp] theorem State.dummyFetch_bus (s : State) : (s.dummyFetch).bus = s.bus.dummyRead s.pc := rfl

@[simp] theorem State.fetchByte_a (s : State) : (s.fetchByte.2).a = s.a := rfl
@[simp] theorem State.fetchByte_x (s : State) : (s.fetchByte.2).x = s.x := rfl
@[simp] theorem State.fetchByte_y (s : State) : (s.fetchByte.2).y = s.y := rfl
@[simp] theorem State.fetchByte_sp (s : State) : (s.fetchByte.2).sp = s.sp := rfl
@[simp] theorem State.fetchByte_pc (s : State) : (s.fetchByte.2).pc = s.pc + 1 := rfl
@[simp] theorem State.fetchByte_flags (s : State) : (s.fetchByte.2).flags = s.flags := rfl
@[simp] theorem State.fetchByte_resetPending (s : State) : (s.fetchByte.2).resetPending = s.resetPending := rfl
@[simp] theorem State.fetchByte_fatal (s : State) : (s.fetchByte.2).fatal = s.fatal := rfl
@[simp] theorem State.fetchByte_inputs (s : State) : (s.fetchByte.2).inputs = s.inputs := rfl
@[simp] theorem State.fetchByte_bus (s : State) : (s.fetchByte.2).bus = (s.bus.read s.pc).2 := rfl

@[simp] theorem State.push_a (s : State) (v : Byte) : (s.push v).a = s.a := rfl
@[simp] theorem State.push_x (s : State) (v : Byte) : (s.push v).x = s.x := rfl
@[simp] theorem State.push_y (s : State) (v : Byte) : (s.push v).y = s.y := rfl
@[simp] theorem State.push_sp (s : State) (v : Byte) : (s.push v).sp = s.sp - 1 := rfl
@[simp] theorem State.push_pc (s : State) (v : Byte) : (s.push v).pc = s.pc := rfl
@[simp] theorem State.push_flags (s : State) (v : Byte) : (s.push v).flags = s.flags := rfl
@[simp] theorem State.push_resetPending (s : State) (v : Byte) : (s.push v).resetPending = s.resetPending := rfl
@[simp] theorem State.push_fatal (s : State) (v : Byte) : (s.push v).fatal = s.fatal := rfl
@[simp] theorem State.push_inputs (s : State) (v : Byte) : (s.push v).inputs = s.inputs := rfl
@[simp] theorem State.push_bus (s : State) (v : Byte) : (s.push v).bus = s.bus.write (stackAddr s.sp) v := rfl

@[simp] theorem State.raiseSp_a (s : State) : (s.raiseSp).a = s.a := rfl
@[simp] theorem State.raiseSp_x (s : State) : (s.raiseSp).x = s.x := rfl
@[simp] theorem State.raiseSp_y (s : State) : (s.raiseSp).y = s.y := rfl
@[simp] theorem State.raiseSp_sp (s : State) : (s.raiseSp).sp = s.sp + 1 := rfl
@[simp] theorem State.raiseSp_pc (s : State) : (s.raiseSp).pc = s.pc := rfl
@[simp] theorem State.raiseSp_flags (s : State) : (s.raiseSp).flags = s.flags := rfl
@[simp] theorem State.raiseSp_resetPending (s : State) : (s.raiseSp).resetPending = s.resetPending := rfl
@[simp] theorem State.raiseSp_fatal (s : State) : (s.raiseSp).fatal = s.fatal := rfl
@[simp] theorem State.raiseSp_inputs (s : State) : (s.raiseSp).inputs = s.inputs := rfl
@[simp] theorem State.raiseSp_bus (s : State) : (s.raiseSp).bus = s.bus.dummyRead (stackAddr s.sp) := rfl

@[simp] theorem State.resetPop_a (s : State) : (s.resetPop).a = s.a := rfl
@[simp] theorem State.resetPop_x (s : State) : (s.resetPop).x = s.x := rfl
@[simp] theorem State.resetPop_y (s : State) : (s.resetPop).y = s.y := rfl
@[simp] theorem State.resetPop_sp (s : State) : (s.resetPop).sp = s.sp - 1 := rfl
@[simp] theorem State.resetPop_pc (s : State) : (s.resetPop).pc = s.pc := rfl
@[simp] theorem State.resetPop_flags (s : State) : (s.resetPop).flags = s.flags := rfl
@[simp] theorem State.resetPop_resetPending (s : State) : (s.resetPop).resetPending = s.resetPending := rfl
@[simp] theorem State.resetPop_fatal (s : State) : (s.resetPop).fatal = s.fatal := rfl
@[simp] theorem State.resetPop_inputs (s : State) : (s.resetPop).inputs = s.inputs := rfl
@[simp] theorem State.resetPop_bus (s : State) : (s.resetPop).bus = s.bus.dummyRead (stackAddr s.sp) := rfl

@[simp] theorem State.readTop_a (s : State) : (s.readTop.2).a = s.a := rfl
@[simp] theorem State.readTop_x (s : State) : (s.readTop.2).x = s.x := rfl
@[simp] theorem State.readTop_y (s : State) : (s.readTop.2).y = s.y := rfl
@[simp] theorem State.readTop_sp (s : State) : (s.readTop.2).sp = s.sp := rfl
@[simp] theorem State.readTop_pc (s : State) : (s.readTop.2).pc = s.pc := rfl
@[simp] theorem State.readTop_flags (s : State) : (s.readTop.2).flags = s.flags := rfl
@[simp] theorem State.readTop_resetPending (s : State) : (s.readTop.2).resetPending = s.resetPending := rfl
@[simp] theorem State.readTop_fatal (s : State) : (s.readTop.2).fatal = s.fatal := rfl
@[simp] theorem State.readTop_inputs (s : State) : (s.readTop.2).inputs = s.inputs := rfl
@[simp] theorem State.readTop_bus (s : State) : (s.readTop.2).bus = (s.bus.read (stackAddr s.sp)).2 := rfl

@[simp] theorem State.popByte_a (s : State) : (s.popByte.2).a = s.a := rfl
@[simp] theorem State.popByte_x (s : State) : (s.popByte.2).x = s.x := rfl
@[simp] theorem State.popByte_y (s : State) : (s.popByte.2).y = s.y := rfl
@[simp] theorem State.popByte_sp (s : State) : (s.popByte.2).sp = s.sp + 1 := rfl
@[simp] theorem State.popByte_pc (s : State) : (s.popByte.2).pc = s.pc := rfl
@[simp] theorem State.popByte_flags (s : State) : (s.popByte.2).flags = s.flags := rfl
@[simp] theorem State.popByte_resetPending (s : State) : (s.popByte.2).resetPending = s.resetPending := rfl
@[simp] theorem State.popByte_fatal (s : State) : (s.popByte.2).fatal = s.fatal := rfl
@[simp] theorem State.popByte_inputs (s : State) : (s.popByte.2).inputs = s.inputs := rfl
@[simp] theorem State.popByte_bus (s : State) : (s.popByte.2).bus = (s.bus.read (stackAddr s.sp)).2 := rfl

@[simp] theorem State.raiseIllegal_a (s : State) (op : Byte) : (s.raiseIllegal op).a = s.a := rfl
@[simp] theorem State.raiseIllegal_x (s : State) (op : Byte) : (s.raiseIllegal op).x = s.x := rfl
@[simp] theorem State.raiseIllegal_y (s : State) (op : Byte) : (s.raiseIllegal op).y = s.y := rfl
@[simp] theorem State.raiseIllegal_sp (s : State) (op : Byte) : (s.raiseIllegal op).sp = s.sp := rfl
@[simp] theorem State.raiseIllegal_pc (s : State) (op : Byte) : (s.raiseIllegal op).pc = s.pc := rfl
@[simp] theorem State.raiseIllegal_flags (s : State) (op : Byte) : (s.raiseIllegal op).flags = s.flags := rfl
@[simp] theorem State.raiseIllegal_resetPending (s : State) (op : Byte) : (s.raiseIllegal op).resetPending = s.resetPending := rfl
@[simp] theorem State.raiseIllegal_fatal (s : State) (op : Byte) : (s.raiseIllegal op).fatal = some { op := op, addr := s.pc - 1 } := rfl
@[simp] theorem State.raiseIllegal_inputs (s : State) (op : Byte) : (s.raiseIllegal op).inputs = s.inputs := rfl
@[simp] theorem State.raiseIllegal_bus (s : State) (op : Byte) : (s.raiseIllegal op).bus = s.bus := rfl

@[simp] theorem State.loadVector_a (s : State) (v : Addr) : (s.loadVector v).a = s.a := rfl
@[simp] theorem State.loadVector_x (s : State) (v : Addr) : (s.loadVector v).x = s.x := rfl
@[simp] theorem State.loadVector_y (s : State) (v : Addr) : (s.loadVector v).y = s.y := rfl
@[simp] theorem State.loadVector_sp (s : State) (v : Addr) : (s.loadVector v).sp = s.sp := rfl
@[simp] theorem State.loadVector_pc (s : State) (v : Addr) : (s.loadVector v).pc = concat ((s.bus.read v).2.read (v + 1)).1 (s.bus.read v).1 := rfl
@[simp] theorem State.loadVector_flags (s : State) (v : Addr) : (s.loadVector v).flags = { s.flags with i := true } := rfl
@[simp] theorem State.loadVector_resetPending (s : State) (v : Addr) : (s.loadVector v).resetPending = s.resetPending := rfl
@[simp] theorem State.loadVector_fatal (s : State) (v : Addr) : (s.loadVector v).fatal = s.fatal := rfl
@[simp] theorem State.loadVector_inputs (s : State) (v : Addr) : (s.loadVector v).inputs = s.inputs := rfl
@[simp] theorem State.loadVector_bus (s : State) (v : Addr) : (s.loadVector v).bus = ((s.bus.read v).2.read (v + 1)).2 := rfl

@[simp] theorem State.fetchByte_value (s : State) : s.fetchByte.1 = (s.bus.read s.pc).1 := rfl
@[simp] theorem State.readTop_value (s : State) : s.readTop.1 = (s.bus.read (stackAddr s.sp)).1 := rfl
@[simp] theorem State.popByte_value (s : State) : s.popByte.1 = (s.bus.read (stackAddr s.sp)).1 := rfl

end Sys2Proof.Machine
end

