-- ==== Sys2Proof/Laws/Bus.lean ====
section
/-! SUPPORT. What a bus cycle can do: one lemma for each kind of cycle. -/

namespace Sys2Proof.Machine

/-! ### Addresses -/

theorem lo_toNat (a : Addr) : (lo a).toNat = a.toNat % 256 := by simp [lo]

theorem hi_toNat (a : Addr) : (hi a).toNat = a.toNat / 256 := by simp [hi]; omega

theorem concat_toNat (h l : Byte) : (concat h l).toNat = h.toNat * 256 + l.toNat := by simp [concat]; omega

@[simp] theorem lo_concat (h l : Byte) : lo (concat h l) = l := by
  apply BitVec.eq_of_toNat_eq; rw [lo_toNat, concat_toNat]; omega

@[simp] theorem hi_concat (h l : Byte) : hi (concat h l) = h := by
  apply BitVec.eq_of_toNat_eq; rw [hi_toNat, concat_toNat]; omega

@[simp] theorem concat_hi_lo (a : Addr) : concat (hi a) (lo a) = a := by
  apply BitVec.eq_of_toNat_eq; rw [concat_toNat, lo_toNat, hi_toNat]; omega

theorem zeroPage_toNat (z : Byte) : (zeroPage z).toNat = z.toNat := by simp [zeroPage, concat_toNat]

theorem stackAddr_toNat (sp : Byte) : (stackAddr sp).toNat = 256 + sp.toNat := by simp [stackAddr, concat_toNat]

@[simp] theorem regionOf_zeroPage (p : Platform) (z : Byte) : regionOf p (zeroPage z) = .ram := by
  have := z.isLt; cases p <;> simp [regionOf, zeroPage_toNat]; omega

@[simp] theorem regionOf_stackAddr (p : Platform) (sp : Byte) : regionOf p (stackAddr sp) = .ram := by
  have := sp.isLt; cases p <;> simp [regionOf, stackAddr_toNat]; omega

@[simp] theorem ramCell_zeroPage (p : Platform) (z : Byte) : ramCell p (zeroPage z) = z.toNat := by
  have := z.isLt; cases p <;> simp [ramCell, zeroPage_toNat]; omega

@[simp] theorem ramCell_stackAddr (p : Platform) (sp : Byte) : ramCell p (stackAddr sp) = 256 + sp.toNat := by
  have := sp.isLt; cases p <;> simp [ramCell, stackAddr_toNat]; omega

@[simp] theorem Bus.region_zeroPage (b : Bus) (z : Byte) : b.region (zeroPage z) = .ram := regionOf_zeroPage _ z
@[simp] theorem Bus.region_stackAddr (b : Bus) (sp : Byte) : b.region (stackAddr sp) = .ram := regionOf_stackAddr _ sp
@[simp] theorem Bus.cell_zeroPage (b : Bus) (z : Byte) : b.cell (zeroPage z) = z.toNat := ramCell_zeroPage _ z
@[simp] theorem Bus.cell_stackAddr (b : Bus) (sp : Byte) : b.cell (stackAddr sp) = 256 + sp.toNat := ramCell_stackAddr _ sp

/-- The decoder's windows on the map of R83, in numbers. -/
theorem regionOf_nes (a : Addr) :
    (regionOf .nes a = .ram ↔ a.toNat < 0x2000) ∧ (regionOf .nes a = .ppu ↔ 0x2000 ≤ a.toNat ∧ a.toNat < 0x4000) ∧
    (regionOf .nes a = .io ↔ 0x4000 ≤ a.toNat ∧ a.toNat < 0x4018) ∧
    (regionOf .nes a = .disabled ↔ 0x4018 ≤ a.toNat ∧ a.toNat < 0x4020) ∧ (regionOf .nes a = .cart ↔ 0x4020 ≤ a.toNat) := by
  simp only [regionOf]
  split <;> (try split) <;> (try split) <;> (try split) <;> refine ⟨?_, ?_, ?_, ?_, ?_⟩ <;> simp <;> omega

theorem Bus.region_flat {b : Bus} (h : b.params.platform = .flat) (a : Addr) : b.region a = .ram := by
  simp [Bus.region, regionOf, h]

/-- Only the map of R83 has windows that are not RAM. -/
theorem Bus.platform_of_region {b : Bus} {a : Addr} (h : b.region a ≠ .ram) : b.params.platform = .nes := by
  cases hp : b.params.platform with
  | nes => rfl
  | flat => exact absurd (Bus.region_flat hp a) h

theorem Bus.region_eq_cart {b : Bus} {a : Addr} : b.region a = .cart ↔ b.params.platform = .nes ∧ 0x4020 ≤ a.toNat := by
  cases hp : b.params.platform with
  | nes => simp [Bus.region, hp, regionOf_nes]
  | flat => simp [Bus.region_flat hp]

theorem Bus.region_eq_io {b : Bus} {a : Addr} :
    b.region a = .io ↔ b.params.platform = .nes ∧ 0x4000 ≤ a.toNat ∧ a.toNat < 0x4018 := by
  cases hp : b.params.platform with
  | nes => simp [Bus.region, hp, regionOf_nes]
  | flat => simp [Bus.region_flat hp]

theorem Bus.region_eq_ppu {b : Bus} {a : Addr} :
    b.region a = .ppu ↔ b.params.platform = .nes ∧ 0x2000 ≤ a.toNat ∧ a.toNat < 0x4000 := by
  cases hp : b.params.platform with
  | nes => simp [Bus.region, hp, regionOf_nes]
  | flat => simp [Bus.region_flat hp]

theorem Bus.region_congr {b c : Bus} (h : c.params = b.params) (a : Addr) : c.region a = b.region a := by simp [Bus.region, h]

theorem Bus.cell_congr {b c : Bus} (h : c.params = b.params) (a : Addr) : c.cell a = b.cell a := by simp [Bus.cell, h]

/-- Every cell of an address in the RAM window is one the platform has. -/
theorem Bus.cell_lt (b : Bus) (a : Addr) : b.cell a < ramCells b.params.platform := by
  unfold Bus.cell ramCell ramCells
  cases b.params.platform
  · exact Nat.mod_lt _ (by decide)
  · exact a.isLt

theorem Bus.sameCell_eq_true {b : Bus} {a e : Addr} : b.sameCell a e = true ↔
    a = e ∨ (b.region a = .ram ∧ b.region e = .ram ∧ b.cell a = b.cell e) ∨
      (b.region a = .cart ∧ b.region e = .cart ∧ ∃ k, b.cart.target e = some (.ram k) ∧ b.cart.target a = some (.ram k)) := by
  unfold Bus.sameCell
  split <;> simp_all [and_assoc, or_assoc]

theorem Bus.sameCell_eq_false {b : Bus} {a e : Addr} : b.sameCell a e = false ↔
    a ≠ e ∧ ¬ (b.region a = .ram ∧ b.region e = .ram ∧ b.cell a = b.cell e) ∧
      ¬ (b.region a = .cart ∧ b.region e = .cart ∧ ∃ k, b.cart.target e = some (.ram k) ∧ b.cart.target a = some (.ram k)) := by
  rw [← Bool.not_eq_true, Bus.sameCell_eq_true, not_or, not_or]

@[simp] theorem Bus.sameCell_self (b : Bus) (a : Addr) : b.sameCell a a = true := by simp [Bus.sameCell]

/-- Which RAM addresses are one cell is a matter of the platform. -/
theorem Bus.sameCell_ram_congr {b c : Bus} (h : c.params = b.params) {a : Addr} (ha : b.region a = .ram) (e : Addr) :
    c.sameCell a e = b.sameCell a e := by
  have ha' : c.region a = .ram := (Bus.region_congr h a).trans ha
  simp [Bus.sameCell, ha, ha', Bus.region_congr h, Bus.cell_congr h]

theorem Bus.sameCell_of_ram {b c : Bus} (h : c.params = b.params) {e : Addr} (he : b.region e = .ram) (a : Addr) :
    c.sameCell a e = b.sameCell a e := by
  have he' : c.region e = .ram := (Bus.region_congr h e).trans he
  simp [Bus.sameCell, he, he', Bus.region_congr h, Bus.cell_congr h]

/-- Which addresses are one cell, where no bank has changed. -/
theorem Bus.sameCell_congr {b c : Bus} (h : c.params = b.params) (hm : c.cart.map = b.cart.map) (hi : c.cart.info = b.cart.info)
    (a e : Addr) : c.sameCell a e = b.sameCell a e := by
  simp [Bus.sameCell, Bus.region_congr h, Bus.cell_congr h, Cartridge.target_congr hm hi]

/-! ### Registers that can be deferred (60_exceptions.md R452) -/

@[simp] theorem Latched.write_written {α : Type} (r : Latched α) (v : α) (d : Bool) : (r.write v d).written = v := rfl
@[simp] theorem Latched.write_held {α : Type} (r : Latched α) (v : α) (d : Bool) : (r.write v d).held = d := rfl
@[simp] theorem Latched.settle_written {α : Type} (r : Latched α) : r.settle.written = r.written := rfl
@[simp] theorem Latched.settle_held {α : Type} (r : Latched α) : r.settle.held = false := rfl
@[simp] theorem Latched.settle_settle {α : Type} (r : Latched α) : r.settle.settle = r.settle := by simp [Latched.settle]

/-- Where nothing is deferred there is nothing to apply. -/
theorem Latched.settle_of_not_held {α : Type} {r : Latched α} (h : r.held = false) : r.settle = r := by
  cases r; simp_all [Latched.settle]

@[simp] theorem Latched.Rests.refl {α : Type} (r : Latched α) : r.Rests r := .inl rfl

theorem Latched.Rests.trans {α : Type} {r s t : Latched α} (h : r.Rests s) (k : s.Rests t) : r.Rests t := by
  rcases h with rfl | rfl
  · exact k
  · rcases k with rfl | rfl
    · exact .inr rfl
    · exact .inr r.settle_settle

theorem Latched.Rests.written {α : Type} {r s : Latched α} (h : r.Rests s) : s.written = r.written := by
  rcases h with rfl | rfl <;> rfl

/-- What is not deferred stays in force (the invariant's part of R452), through a write and through a rest. -/
theorem Latched.write_applied {α : Type} (r : Latched α) (v : α) (d : Bool) : (r.write v d).Applied := by
  intro h; cases h; rfl

theorem Latched.Rests.applied {α : Type} {r s : Latched α} (h : r.Rests s) (k : r.Applied) : s.Applied := by
  rcases h with rfl | rfl
  · exact k
  · intro _
    cases hh : r.held with
    | true => simp [Latched.settle, hh]
    | false => rw [Latched.settle_of_not_held hh]; exact k hh

/-! ### `Keeps` -/

theorem Bus.Keeps.refl (b : Bus) : b.Keeps b := by constructor <;> simp

theorem Bus.Keeps.quiet {b c : Bus} (h : b.Keeps c) : c.cart.quiet = b.cart.quiet := Cartridge.quiet_congr h.mapper

theorem Bus.Keeps.region {b c : Bus} (h : b.Keeps c) (a : Addr) : c.region a = b.region a := Bus.region_congr h.params a

theorem Bus.Keeps.trans {b c d : Bus} (h : b.Keeps c) (k : c.Keeps d) : b.Keeps d where
  params := k.params.trans h.params
  mem := k.mem.trans h.mem
  dma := k.dma.trans h.dma
  info := k.info.trans h.info
  mapper := k.mapper.trans h.mapper
  rom := k.rom.trans h.rom
  work := k.work.trans h.work
  cart := fun q => (k.cart (h.quiet.trans q)).trans (h.cart q)
  ctrl := h.ctrl.trans k.ctrl
  mask := h.mask.trans k.mask
  oamAddr := k.oamAddr.trans h.oamAddr
  scrollX := h.scrollX.trans k.scrollX
  scrollY := h.scrollY.trans k.scrollY
  addrFirst := k.addrFirst.trans h.addrFirst
  oam := k.oam.trans h.oam
  regs := k.regs.trans h.regs
  dmcIrq := k.dmcIrq.trans h.dmcIrq
  sampleByte := k.sampleByte.trans h.sampleByte
  buttons1 := k.buttons1.trans h.buttons1
  buttons2 := k.buttons2.trans h.buttons2
  frameIrq := fun f => h.frameIrq (k.frameIrq f)
  nmiPending := fun f => k.nmiPending (h.nmiPending f)
  cycles := h.cycles.trans k.cycles

/-- Clearing the NMI latch and the requests on both sides changes nothing else. -/
theorem Bus.Keeps.cleared {b c : Bus} (h : b.Keeps c) (d : DmaRequest) :
    ({ b with nmiPending := false, dma := d } : Bus).Keeps { c with nmiPending := false, dma := d } :=
  { h with dma := rfl, nmiPending := fun q => q }

theorem Bus.storage_ram {b : Bus} {a : Addr} (h : b.region a = .ram) : b.storage a = some (Memory.byte b.mem (b.cell a)) := by
  simp [Bus.storage, h]

theorem Bus.still_iff {b : Bus} {a : Addr} : b.still a = true ↔ b.region a = .ram ∨ b.cart.quiet = true := by
  simp [Bus.still]

/-- Storage stays as it is, but for the banks of a variant mapper. -/
theorem Bus.Keeps.storage {b b' : Bus} (h : b.Keeps b') {a : Addr} (hs : b.still a = true) : b'.storage a = b.storage a := by
  rcases Bus.still_iff.mp hs with hr | hq
  · rw [Bus.storage_ram hr, Bus.storage_ram ((h.region a).trans hr), h.mem, Bus.cell_congr h.params]
  · simp [Bus.storage, h.region, h.mem, h.cart hq, Bus.cell_congr h.params]

theorem Bus.Keeps.still {b b' : Bus} (h : b.Keeps b') (a : Addr) : b'.still a = b.still a := by
  simp [Bus.still, h.region, h.quiet]

theorem Bus.still_of_ram {b : Bus} {a : Addr} (h : b.region a = .ram) : b.still a = true := Bus.still_iff.mpr (.inl h)

/-! ### The raster moves, marks, and applies what was deferred; it writes no register -/

@[simp] theorem Ppu.settle_keeps (p : Ppu) :
    p.settle.oamAddr = p.oamAddr ∧ p.settle.addrFirst = p.addrFirst ∧ p.settle.oam = p.oam ∧
    p.settle.readBuffer = p.readBuffer ∧ p.settle.writeLatch = p.writeLatch ∧ p.settle.vblank = p.vblank ∧
    p.settle.spriteZero = p.spriteZero ∧ p.settle.spriteOverflow = p.spriteOverflow ∧
    p.settle.scanline = p.scanline ∧ p.settle.dot = p.dot ∧ p.settle.oddFrame = p.oddFrame := by
  unfold Ppu.settle
  split <;> simp

/-- The registers that can be deferred stay as they are, or what was deferred is applied (R452). -/
theorem Ppu.settle_rests (p : Ppu) :
    p.ctrl.Rests p.settle.ctrl ∧ p.mask.Rests p.settle.mask ∧ p.scrollX.Rests p.settle.scrollX ∧
    p.scrollY.Rests p.settle.scrollY ∧ p.vramAddr.Rests p.settle.vramAddr := by
  unfold Ppu.settle
  split
  · exact ⟨.inr rfl, .inr rfl, .inr rfl, .inr rfl, .inr rfl⟩
  · exact ⟨.inl rfl, .inl rfl, .inl rfl, .inl rfl, .inl rfl⟩

theorem Ppu.mark_move_keeps (p : Ppu) :
    p.move.mark.ctrl = p.ctrl ∧ p.move.mark.mask = p.mask ∧ p.move.mark.oamAddr = p.oamAddr ∧
    p.move.mark.scrollX = p.scrollX ∧ p.move.mark.scrollY = p.scrollY ∧ p.move.mark.addrFirst = p.addrFirst ∧
    p.move.mark.oam = p.oam ∧ p.move.mark.vramAddr = p.vramAddr ∧ p.move.mark.readBuffer = p.readBuffer ∧
    p.move.mark.writeLatch = p.writeLatch := by
  unfold Ppu.mark Ppu.move
  repeat' split
  all_goals simp

@[simp] theorem Ppu.advance_oamAddr (p : Ppu) : p.advance.oamAddr = p.oamAddr := by simp [Ppu.advance, Ppu.mark_move_keeps]
@[simp] theorem Ppu.advance_addrFirst (p : Ppu) : p.advance.addrFirst = p.addrFirst := by simp [Ppu.advance, Ppu.mark_move_keeps]
@[simp] theorem Ppu.advance_oam (p : Ppu) : p.advance.oam = p.oam := by simp [Ppu.advance, Ppu.mark_move_keeps]
@[simp] theorem Ppu.advance_readBuffer (p : Ppu) : p.advance.readBuffer = p.readBuffer := by
  simp [Ppu.advance, Ppu.mark_move_keeps]
@[simp] theorem Ppu.advance_writeLatch (p : Ppu) : p.advance.writeLatch = p.writeLatch := by
  simp [Ppu.advance, Ppu.mark_move_keeps]

/-- Of the registers that can be deferred, all that a dot can do. -/
theorem Ppu.advance_rests (p : Ppu) :
    p.ctrl.Rests p.advance.ctrl ∧ p.mask.Rests p.advance.mask ∧ p.scrollX.Rests p.advance.scrollX ∧
    p.scrollY.Rests p.advance.scrollY ∧ p.vramAddr.Rests p.advance.vramAddr := by
  have h := p.move.mark.settle_rests
  simp only [p.mark_move_keeps] at h
  exact h

@[simp] theorem Ppu.advance_ctrl_written (p : Ppu) : p.advance.ctrl.written = p.ctrl.written := p.advance_rests.1.written
@[simp] theorem Ppu.advance_mask_written (p : Ppu) : p.advance.mask.written = p.mask.written := p.advance_rests.2.1.written

/-- The same of the three dots of a CPU cycle (R82). -/
@[simp] theorem Ppu.advance3_rests (p : Ppu) :
    p.ctrl.Rests p.advance.advance.advance.ctrl ∧ p.mask.Rests p.advance.advance.advance.mask ∧
    p.scrollX.Rests p.advance.advance.advance.scrollX ∧ p.scrollY.Rests p.advance.advance.advance.scrollY ∧
    p.vramAddr.Rests p.advance.advance.advance.vramAddr := by
  obtain ⟨h1, h2, h3, h4, h5⟩ := p.advance_rests
  obtain ⟨i1, i2, i3, i4, i5⟩ := p.advance.advance_rests
  obtain ⟨j1, j2, j3, j4, j5⟩ := p.advance.advance.advance_rests
  exact ⟨(h1.trans i1).trans j1, (h2.trans i2).trans j2, (h3.trans i3).trans j3, (h4.trans i4).trans j4, (h5.trans i5).trans j5⟩

theorem Bus.tick_keeps (b : Bus) : b.Keeps b.tick := by
  constructor <;> simp +contextual [Cartridge.tick_keeps]

theorem Bus.observe_keeps (b : Bus) (w : Bool) (a : Addr) (v : Byte) : b.Keeps (b.observe w a v) := by
  constructor <;> simp +contextual [Cartridge.observe_keeps]

/-- A mapper that changes its state by writes only observes in silence. -/
theorem Bus.observe_quiet {b : Bus} (w : Bool) (a : Addr) (v : Byte) (q : b.cart.quiet = true) : b.observe w a v = b := by
  simp only [Bus.observe, (Cartridge.observe_keeps b.cart w a v).2.2.2.2 q]

/-! ### Reads -/

/-- An access of PPUDATA moves the address and nothing else. -/
@[simp] theorem Ppu.moveAddr_keeps (p : Ppu) (k : Addr) :
    (p.moveAddr k).ctrl = p.ctrl ∧ (p.moveAddr k).mask = p.mask ∧ (p.moveAddr k).oamAddr = p.oamAddr ∧
    (p.moveAddr k).scrollX = p.scrollX ∧ (p.moveAddr k).scrollY = p.scrollY ∧ (p.moveAddr k).addrFirst = p.addrFirst ∧
    (p.moveAddr k).oam = p.oam ∧ (p.moveAddr k).writeLatch = p.writeLatch ∧ (p.moveAddr k).vblank = p.vblank ∧
    (p.moveAddr k).scanline = p.scanline ∧ (p.moveAddr k).dot = p.dot ∧ (p.moveAddr k).oddFrame = p.oddFrame :=
  ⟨rfl, rfl, rfl, rfl, rfl, rfl, rfl, rfl, rfl, rfl, rfl, rfl⟩

theorem Bus.writeOnlyRead_frame (b : Bus) : b.writeOnlyRead.2 = b ∨ b.writeOnlyRead.2 = b.drawByte.2 := by
  unfold Bus.writeOnlyRead
  split <;> simp

/-- What an answer touches: the data bus, the free values, the PPU's latches, the frame IRQ, the controllers. -/
theorem Bus.answer_frame (b : Bus) (a : Addr) :
    b.Keeps (b.answer a).2 ∧ (b.answer a).2.cart = b.cart ∧ (b.answer a).2.cycles = b.cycles ∧
    (b.answer a).2.nmiPending = b.nmiPending ∧ (b.answer a).2.nmiLinePrev = b.nmiLinePrev ∧
    (b.answer a).2.ppu.scanline = b.ppu.scanline ∧ (b.answer a).2.ppu.dot = b.ppu.dot ∧
    (b.answer a).2.ppu.oddFrame = b.ppu.oddFrame ∧
    (b.answer a).2.apu.clock = b.apu.clock ∧ (b.answer a).2.pad1.shift.length ≤ b.pad1.shift.length ∧
    (b.answer a).2.pad2.shift.length ≤ b.pad2.shift.length := by
  unfold Bus.answer
  split
  · refine ⟨by constructor <;> simp, ?_⟩; simp
  · unfold Bus.ppuRead
    split
    · refine ⟨by constructor <;> simp, ?_⟩; simp
    · refine ⟨by constructor <;> simp, ?_⟩; simp
    · refine ⟨by constructor <;> simp, ?_⟩; simp
    · rcases b.writeOnlyRead_frame with h | h <;> (refine ⟨by constructor <;> simp [h], ?_⟩; simp [h])
  · unfold Bus.ioRead
    split <;> (refine ⟨by constructor <;> simp [Controller.next], ?_⟩; simp [Controller.next])
  · refine ⟨Bus.Keeps.refl b, ?_⟩; simp
  · split
    · refine ⟨by constructor <;> simp, ?_⟩; simp
    · refine ⟨Bus.Keeps.refl b, ?_⟩; simp

/-- No answer puts a deferred write in force: only a dot of the raster does (R452). -/
theorem Bus.answer_mask (b : Bus) (a : Addr) : (b.answer a).2.ppu.mask = b.ppu.mask := by
  unfold Bus.answer
  split
  · rfl
  · unfold Bus.ppuRead
    split
    · rfl
    · rfl
    · rfl
    · rcases b.writeOnlyRead_frame with h | h <;> simp [h]
  · unfold Bus.ioRead
    split <;> rfl
  · rfl
  · split <;> rfl

theorem Bus.accessRead_keeps (b : Bus) (a : Addr) : b.Keeps (b.accessRead a).2 :=
  (b.answer_frame a).1.trans (Bus.observe_keeps _ _ _ _)

/-- A bus read changes no storage and no register that only a write changes. -/
theorem Bus.read_keeps (b : Bus) (a : Addr) : b.Keeps (b.read a).2 := (b.accessRead_keeps a).trans (Bus.tick_keeps _)

/-- Of the reads, only one of 0x4015 clears the frame IRQ (60_exceptions.md R429). -/
theorem Bus.read_frameIrq (b : Bus) {a : Addr} (h : a ≠ 0x4015) : (b.read a).2.apu.frameIrq = b.apu.frameIrq := by
  have hp : ∀ n, (b.ppuRead n).2.apu = b.apu := by
    intro n
    unfold Bus.ppuRead
    split
    · rfl
    · rfl
    · rfl
    · rcases b.writeOnlyRead_frame with h | h <;> rw [h]; rfl
  have hio : ∀ n, n ≠ 0x15 → (let r := b.ioRead n; (r.1, r.2.drive r.1)).2.apu.frameIrq = b.apu.frameIrq := by
    intro n hn
    simp only [Bus.drive_apu]
    unfold Bus.ioRead
    split
    · exact absurd rfl hn
    all_goals rfl
  have hn : b.region a = .io → a.toNat - 0x4000 ≠ 0x15 := by
    intro hr he
    obtain ⟨-, h1, h2⟩ := Bus.region_eq_io.mp hr
    have h15 : (0x4015 : Addr).toNat = 16405 := by decide
    exact h (BitVec.eq_of_toNat_eq (by rw [h15]; omega))
  have key : (b.answer a).2.apu.frameIrq = b.apu.frameIrq := by
    unfold Bus.answer
    split
    · rfl
    · simp only [Bus.drive_apu, hp]
    · next hr => exact hio _ (hn hr)
    · rfl
    · split <;> rfl
  simp only [Bus.read, Bus.accessRead, Bus.tick_apu, Bus.observe_apu, key]

theorem Bus.dummyRead_keeps (b : Bus) (a : Addr) : b.Keeps (b.dummyRead a) := b.read_keeps a

theorem Bus.accessRead_cycles (b : Bus) (a : Addr) : (b.accessRead a).2.cycles = b.cycles := (b.answer_frame a).2.2.1

@[simp] theorem Bus.read_cycles (b : Bus) (a : Addr) : (b.read a).2.cycles = b.cycles + 1 := by
  simp [Bus.read, Bus.accessRead_cycles]

@[simp] theorem Bus.dummyRead_cycles (b : Bus) (a : Addr) : (b.dummyRead a).cycles = b.cycles + 1 := b.read_cycles a

@[simp] theorem Bus.read_mem (b : Bus) (a : Addr) : (b.read a).2.mem = b.mem := (b.read_keeps a).mem
@[simp] theorem Bus.dummyRead_mem (b : Bus) (a : Addr) : (b.dummyRead a).mem = b.mem := (b.read_keeps a).mem
@[simp] theorem Bus.read_params (b : Bus) (a : Addr) : (b.read a).2.params = b.params := (b.read_keeps a).params
@[simp] theorem Bus.dummyRead_params (b : Bus) (a : Addr) : (b.dummyRead a).params = b.params := (b.read_keeps a).params

theorem Bus.read_storage {b : Bus} {k : Addr} (a : Addr) (h : b.still k = true) : (b.read a).2.storage k = b.storage k :=
  (b.read_keeps a).storage h

/-- The byte a read answers with is the answer of the handler. -/
theorem Bus.read_fst (b : Bus) (a : Addr) : (b.read a).1 = (b.answer a).1 := by simp only [Bus.read, Bus.accessRead]

/-- A read of storage gives the byte stored there. -/
theorem Bus.read_value {b : Bus} {a : Addr} {v : Byte} (h : b.storage a = some v) : (b.read a).1 = v := by
  unfold Bus.storage at h
  rw [Bus.read_fst, Bus.answer]
  split at h <;> simp_all

/-- A read of an address that is RAM or cartridge gives the byte stored there, or `open_bus` where nothing drives one (R86,
R104). -/
theorem Bus.read_getD {b : Bus} {a : Addr} (h : b.region a = .ram ∨ b.region a = .cart) :
    (b.read a).1 = (b.storage a).getD b.openBus ∧ (b.read a).2.openBus = (b.read a).1 := by
  rw [Bus.read_fst]
  rcases h with h | h
  · simp [Bus.read, Bus.accessRead, Bus.answer, Bus.storage, h]
  · cases hc : b.cart.cpuRead a <;> simp [Bus.read, Bus.accessRead, Bus.answer, Bus.storage, h, hc]

theorem Bus.read_ram (b : Bus) {a : Addr} (h : b.region a = .ram) : (b.read a).1 = Memory.byte b.mem (b.cell a) :=
  Bus.read_value (Bus.storage_ram h)

@[simp] theorem Bus.read_zeroPage (b : Bus) (z : Byte) : (b.read (zeroPage z)).1 = Memory.byte b.mem z.toNat := by
  rw [Bus.read_ram b (by simp), Bus.cell_zeroPage]

@[simp] theorem Bus.read_stack (b : Bus) (sp : Byte) : (b.read (stackAddr sp)).1 = Memory.byte b.mem (256 + sp.toNat) := by
  rw [Bus.read_ram b (by simp), Bus.cell_stackAddr]

/-! ### Writes -/

theorem Bus.ppuWrite_frame (b : Bus) (r : Nat) (v : Byte) :
    (b.ppuWrite r v).mem = b.mem ∧ (b.ppuWrite r v).cycles = b.cycles ∧ (b.ppuWrite r v).cart = b.cart ∧
    (b.ppuWrite r v).apu = b.apu ∧ (b.ppuWrite r v).pad1 = b.pad1 ∧ (b.ppuWrite r v).pad2 = b.pad2 ∧
    (b.ppuWrite r v).nmiPending = b.nmiPending ∧ (b.ppuWrite r v).nmiLinePrev = b.nmiLinePrev ∧
    (b.ppuWrite r v).dma = b.dma ∧ (b.ppuWrite r v).openBus = b.openBus ∧ (b.ppuWrite r v).params = b.params := by
  unfold Bus.ppuWrite
  repeat' split
  all_goals simp

theorem Bus.ioWrite_frame (b : Bus) (r : Nat) (v : Byte) :
    (b.ioWrite r v).mem = b.mem ∧ (b.ioWrite r v).cycles = b.cycles ∧ (b.ioWrite r v).cart = b.cart ∧
    (b.ioWrite r v).ppu = b.ppu ∧ (b.ioWrite r v).pad1.buttons = b.pad1.buttons ∧
    (b.ioWrite r v).pad2.buttons = b.pad2.buttons ∧ (b.ioWrite r v).nmiPending = b.nmiPending ∧
    (b.ioWrite r v).nmiLinePrev = b.nmiLinePrev ∧ (b.ioWrite r v).openBus = b.openBus ∧
    (b.ioWrite r v).apu.sampleByte = b.apu.sampleByte ∧ (b.ioWrite r v).dma.dmc = b.dma.dmc ∧
    (b.ioWrite r v).params = b.params := by
  unfold Bus.ioWrite
  repeat' split
  all_goals simp [Controller.strobe, Apu.write]

/-- What the handler of a write touches, by region. -/
theorem Bus.store_frame (b : Bus) (a : Addr) (v : Byte) :
    (b.store a v).params = b.params ∧ (b.store a v).cycles = b.cycles ∧ (b.store a v).nmiPending = b.nmiPending ∧
    (b.store a v).nmiLinePrev = b.nmiLinePrev ∧ (b.store a v).openBus = b.openBus ∧
    (b.store a v).apu.sampleByte = b.apu.sampleByte ∧ (b.store a v).pad1.buttons = b.pad1.buttons ∧
    (b.store a v).pad2.buttons = b.pad2.buttons ∧
    (b.store a v).mem = (if b.region a = .ram then Memory.write b.mem (b.cell a) v else b.mem) ∧
    (b.store a v).cart = (if b.region a = .cart then b.cart.cpuWrite a v else b.cart) := by
  unfold Bus.store
  split <;> simp [*, Bus.ppuWrite_frame, Bus.ioWrite_frame]

/-- The same of a whole cycle. -/
theorem Bus.write_frame (b : Bus) (a : Addr) (v : Byte) :
    (b.write a v).params = b.params ∧ (b.write a v).cycles = b.cycles + 1 ∧
    (b.nmiPending = true → (b.write a v).nmiPending = true) ∧ (b.write a v).openBus = v ∧
    (b.write a v).apu.sampleByte = b.apu.sampleByte ∧ (b.write a v).pad1.buttons = b.pad1.buttons ∧
    (b.write a v).pad2.buttons = b.pad2.buttons ∧
    (b.write a v).mem = (if b.region a = .ram then Memory.write b.mem (b.cell a) v else b.mem) ∧
    (b.write a v).cart.info = b.cart.info ∧ (b.write a v).cart.mapper = b.cart.mapper ∧
    (b.write a v).cart.rom = b.cart.rom ∧
    (b.write a v).cart.work = (if b.region a = .cart then (b.cart.store a v).work else b.cart.work) ∧
    (b.cart.quiet = true → (b.write a v).cart = (if b.region a = .cart then b.cart.cpuWrite a v else b.cart)) := by
  have hr : (b.drive v).region a = b.region a := rfl
  have hc : (b.drive v).cell a = b.cell a := rfl
  obtain ⟨h1, h2, h3, h4, h5, h6, h7, h8, h9, h10⟩ := (b.drive v).store_frame a v
  simp only [hr, hc, Bus.drive_mem, Bus.drive_cart] at h9 h10
  have f1 : ((b.drive v).store a v).cart.info = b.cart.info := by rw [h10]; split <;> simp [Cartridge.cpuWrite_frame]
  have f2 : ((b.drive v).store a v).cart.mapper = b.cart.mapper := by rw [h10]; split <;> simp [Cartridge.cpuWrite_frame]
  have f3 : ((b.drive v).store a v).cart.rom = b.cart.rom := by rw [h10]; split <;> simp [Cartridge.cpuWrite_frame]
  have f4 : ((b.drive v).store a v).cart.work = if b.region a = .cart then (b.cart.store a v).work else b.cart.work := by
    rw [h10]; split <;> simp [Cartridge.cpuWrite_frame]
  have k := Bus.tick_keeps ((((b.drive v).store a v)).observe true a v)
  have o := Bus.observe_keeps ((b.drive v).store a v) true a v
  refine ⟨?_, ?_, fun hn => ?_, ?_, ?_, ?_, ?_, ?_, ?_, ?_, ?_, ?_, fun q => ?_⟩
  · exact k.params.trans (o.params.trans h1)
  · simp [Bus.write, Bus.accessWrite, h2]
  · exact k.nmiPending (o.nmiPending (h3.trans hn))
  · simp [Bus.write, Bus.accessWrite, h5]
  · exact k.sampleByte.trans (o.sampleByte.trans h6)
  · exact k.buttons1.trans (o.buttons1.trans h7)
  · exact k.buttons2.trans (o.buttons2.trans h8)
  · exact k.mem.trans (o.mem.trans h9)
  · exact k.info.trans (o.info.trans f1)
  · exact k.mapper.trans (o.mapper.trans f2)
  · exact k.rom.trans (o.rom.trans f3)
  · exact k.work.trans (o.work.trans f4)
  · have q1 : ((b.drive v).store a v).cart.quiet = true := (Cartridge.quiet_congr f2).trans q
    exact (k.cart (o.quiet.trans q1)).trans ((o.cart q1).trans h10)

@[simp] theorem Bus.write_cycles (b : Bus) (a : Addr) (v : Byte) : (b.write a v).cycles = b.cycles + 1 := (b.write_frame a v).2.1
@[simp] theorem Bus.write_params (b : Bus) (a : Addr) (v : Byte) : (b.write a v).params = b.params := (b.write_frame a v).1

theorem Bus.storage_tick {b : Bus} {a : Addr} (h : b.still a = true) : b.tick.storage a = b.storage a := b.tick_keeps.storage h

/-- A write changes the storage of no other cell, but for a change of banks. -/
theorem Bus.write_storage_other {b : Bus} {a k : Addr} (v : Byte) (h : b.sameCell k a = false)
    (hs : b.region k = .ram ∨ b.banksStay [a]) : (b.write a v).storage k = b.storage k := by
  obtain ⟨h1, h2, h3⟩ := Bus.sameCell_eq_false.mp h
  obtain ⟨hp, -, -, -, -, -, -, hm, -, -, -, -, hc⟩ := b.write_frame a v
  have hmem : b.region k = .ram → Memory.byte (b.write a v).mem (b.cell k) = Memory.byte b.mem (b.cell k) := by
    intro hk
    rw [hm]
    split
    · next ha => exact Memory.byte_write_other _ _ (fun e => h2 ⟨hk, ha, e⟩)
    · rfl
  by_cases hk : b.region k = .ram
  · rw [Bus.storage_ram hk, Bus.storage_ram ((Bus.region_congr hp k).trans hk), Bus.cell_congr hp, hmem hk]
  · obtain ⟨hq, hsel⟩ := hs.resolve_left hk
    by_cases ha : b.region a = .cart
    · have hcart : (b.write a v).cart = b.cart.store a v := by
        rw [hc hq, if_pos ha, Cartridge.cpuWrite_eq_store v (hsel a List.mem_cons_self ha)]
      unfold Bus.storage
      rw [Bus.region_congr hp, hcart]
      split
      · contradiction
      · next hkc => exact Cartridge.store_other v (fun n hn hkn => h3 ⟨hkc, ha, n, hn, hkn⟩)
      all_goals rfl
    · have hcart : (b.write a v).cart = b.cart := by rw [hc hq, if_neg ha]
      unfold Bus.storage
      rw [Bus.region_congr hp, hcart]
      split
      · contradiction
      all_goals rfl

theorem Bus.writable_iff {b : Bus} {a : Addr} : b.writable a = true ↔
    b.region a = .ram ∨ (b.region a = .cart ∧ (∃ n, b.cart.target a = some (.ram n)) ∧ b.cart.selects a = false) := by
  unfold Bus.writable
  split
  · simp [*]
  · split <;> simp [*]
  all_goals simp [*]

/-- A mapper that selects nothing at some address changes its state by writes only. -/
theorem Cartridge.quiet_of_selects {c : Cartridge} {a : Addr} (h : c.selects a = false) : c.quiet = true := by
  unfold Cartridge.selects at h
  unfold Cartridge.quiet
  cases hm : c.mapper <;> simp_all

/-- What makes an address writable stays. -/
theorem Bus.Keeps.writable {b c : Bus} (h : b.Keeps c) {a : Addr} (hw : b.writable a = true) : c.writable a = true := by
  rw [Bus.writable_iff] at *
  rw [h.region]
  refine hw.imp_right (fun ⟨h1, h2, h3⟩ => ⟨h1, ?_, ?_⟩) <;> rw [h.cart (Cartridge.quiet_of_selects h3)] <;> assumption

/-- A byte written where it is kept is what its cell reads as afterwards. -/
theorem Bus.write_storage_same {b : Bus} {a k : Addr} (v : Byte) (hw : b.writable a = true) (h : b.sameCell k a = true) : (b.write a v).storage k = some v := by
  obtain ⟨hp, -, -, -, -, -, -, hm, -, -, -, -, hc⟩ := b.write_frame a v
  rcases Bus.writable_iff.mp hw with hr | ⟨ha, ⟨n, hn⟩, hsel⟩
  · have hk : b.region k = .ram ∧ b.cell k = b.cell a := by
      rcases Bus.sameCell_eq_true.mp h with rfl | ⟨h1, _, h3⟩ | ⟨_, h2, _⟩
      · exact ⟨hr, rfl⟩
      · exact ⟨h1, h3⟩
      · rw [hr] at h2; contradiction
    rw [Bus.storage_ram ((Bus.region_congr hp k).trans hk.1), Bus.cell_congr hp, hm, if_pos hr, hk.2, Memory.byte_write_same]
  · have hq := Cartridge.quiet_of_selects hsel
    have hk : b.region k = .cart ∧ b.cart.target k = some (.ram n) := by
      rcases Bus.sameCell_eq_true.mp h with rfl | ⟨_, h2, _⟩ | ⟨h1, _, m, h3, h4⟩
      · exact ⟨ha, hn⟩
      · rw [ha] at h2; contradiction
      · rw [hn] at h3; cases h3; exact ⟨h1, h4⟩
    have hcart : (b.write a v).cart = b.cart.store a v := by rw [hc hq, if_pos ha, Cartridge.cpuWrite_eq_store v hsel]
    unfold Bus.storage
    rw [Bus.region_congr hp, hk.1, hcart]
    exact Cartridge.store_same v hn hk.2

/-! ### `StoresOnly` -/

theorem Bus.Keeps.storesOnly {b b' : Bus} (h : b.Keeps b') (w : List Addr) : b.StoresOnly w b' where
  params := h.params
  storage := fun _ _ hs => h.storage (Bus.still_iff.mpr (hs.imp_right And.left))
  info := h.info
  mapper := h.mapper
  rom := h.rom
  work := fun _ => h.work
  map := fun hb => by rw [h.cart hb.1]
  sampleByte := h.sampleByte
  buttons1 := h.buttons1
  buttons2 := h.buttons2
  nmiPending := h.nmiPending
  cycles := h.cycles
  devices := fun _ => ⟨h.dma, h.ctrl, h.mask, h.oamAddr, h.scrollX, h.scrollY, h.addrFirst, h.oam, h.regs, h.dmcIrq⟩

theorem Bus.banksStay.mono {v w : List Addr} {b : Bus} (h : b.banksStay w) (hw : v ⊆ w) : b.banksStay v :=
  ⟨h.1, fun e he => h.2 e (hw he)⟩

/-- A list of RAM addresses changes no bank of a mapper that changes them by writes only. -/
theorem Bus.banksStay_of_ram {b : Bus} {w : List Addr} (hq : b.cart.quiet = true) (h : ∀ e ∈ w, b.region e = .ram) :
    b.banksStay w := ⟨hq, fun e he hc => by rw [h e he] at hc; contradiction⟩

theorem Bus.StoresOnly.mono {v w : List Addr} {b c : Bus} (h : b.StoresOnly v c) (hw : v ⊆ w) : b.StoresOnly w c where
  params := h.params
  storage := fun a ha hs => h.storage a (fun e he => ha e (hw he)) (hs.imp_right (fun q => q.mono hw))
  info := h.info
  mapper := h.mapper
  rom := h.rom
  work := fun hd => h.work (fun e he => hd e (hw he))
  map := fun q => h.map (q.mono hw)
  sampleByte := h.sampleByte
  buttons1 := h.buttons1
  buttons2 := h.buttons2
  nmiPending := h.nmiPending
  cycles := h.cycles
  devices := fun hd => h.devices (fun e he => hd e (hw he))

theorem Bus.StoresOnly.banksStay {v w : List Addr} {b c : Bus} (h : b.StoresOnly v c) (q : b.banksStay w) : c.banksStay w :=
  ⟨(Cartridge.quiet_congr h.mapper).trans q.1, fun e he hc =>
    (Cartridge.selects_congr h.mapper e).trans (q.2 e he ((Bus.region_congr h.params e).symm.trans hc))⟩

theorem Bus.StoresOnly.trans {w : List Addr} {b c d : Bus} (h : b.StoresOnly w c) (k : c.StoresOnly w d) :
    b.StoresOnly w d where
  params := k.params.trans h.params
  storage := fun a ha hs => by
    have hs' : c.region a = .ram ∨ c.banksStay w := hs.imp (fun r => (Bus.region_congr h.params a).trans r) h.banksStay
    refine (k.storage a (fun e he => ?_) hs').trans (h.storage a ha hs)
    rcases hs with r | q
    · rw [Bus.sameCell_ram_congr h.params r]; exact ha e he
    · rw [Bus.sameCell_congr h.params (h.map q) h.info]; exact ha e he
  info := k.info.trans h.info
  mapper := k.mapper.trans h.mapper
  rom := k.rom.trans h.rom
  work := fun hd => (k.work (fun e he => by rw [Bus.region_congr h.params]; exact hd e he)).trans (h.work hd)
  map := fun q => (k.map (h.banksStay q)).trans (h.map q)
  sampleByte := k.sampleByte.trans h.sampleByte
  buttons1 := k.buttons1.trans h.buttons1
  buttons2 := k.buttons2.trans h.buttons2
  nmiPending := fun f => k.nmiPending (h.nmiPending f)
  cycles := h.cycles.trans k.cycles
  devices := fun hd => by
    obtain ⟨h1, h2, h3, h4, h5, h6, h7, h8, h9, h10⟩ := h.devices hd
    obtain ⟨k1, k2, k3, k4, k5, k6, k7, k8, k9, k10⟩ :=
      k.devices (fun e he => by rw [Bus.region_congr h.params]; exact hd e he)
    exact ⟨k1.trans h1, h2.trans k2, h3.trans k3, k4.trans h4, h5.trans k5, h6.trans k6, k7.trans h7, k8.trans h8,
      k9.trans h9, k10.trans h10⟩

/-- A write leaves what it was allowed to write writable. -/
theorem Bus.write_writable {b : Bus} {a : Addr} (v : Byte) (hw : b.writable a = true) : (b.write a v).writable a = true := by
  obtain ⟨hp, -, -, -, -, -, -, -, -, hmp, -, -, hc⟩ := b.write_frame a v
  rw [Bus.writable_iff] at *
  rw [Bus.region_congr hp, Cartridge.selects_congr hmp]
  refine hw.imp_right (fun ⟨h1, h2, h3⟩ => ⟨h1, ?_, h3⟩)
  rw [hc (Cartridge.quiet_of_selects h3), if_pos h1, Cartridge.cpuWrite_eq_store v h3,
    Cartridge.target_congr (b.cart.store_frame a v).2.2.2 (b.cart.store_frame a v).1]
  exact h2

/-- Which addresses name a cell that a byte can be written to stays the same while nothing is written. -/
theorem Bus.Keeps.sameCell {b c : Bus} (h : b.Keeps c) {a : Addr} (hw : b.writable a = true) (k : Addr) :
    c.sameCell k a = b.sameCell k a := by
  rcases Bus.writable_iff.mp hw with hr | ⟨-, -, hs⟩
  · exact Bus.sameCell_of_ram h.params hr k
  · have hc := h.cart (Cartridge.quiet_of_selects hs)
    exact Bus.sameCell_congr h.params (by rw [hc]) (by rw [hc]) k a

theorem Bus.writable_stackAddr (b : Bus) (sp : Byte) : b.writable (stackAddr sp) = true := Bus.writable_iff.mpr (.inl (by simp))

/-- A bus write changes no storage but its own cell and the banks, and no device register unless it is one. -/
theorem Bus.write_storesOnly (b : Bus) (a : Addr) (v : Byte) : b.StoresOnly [a] (b.write a v) where
  params := b.write_params a v
  storage := fun _ hk hs => Bus.write_storage_other v (hk a List.mem_cons_self) hs
  info := (b.write_frame a v).2.2.2.2.2.2.2.2.1
  mapper := (b.write_frame a v).2.2.2.2.2.2.2.2.2.1
  rom := (b.write_frame a v).2.2.2.2.2.2.2.2.2.2.1
  work := fun hd => by rw [(b.write_frame a v).2.2.2.2.2.2.2.2.2.2.2.1, if_neg (hd a List.mem_cons_self)]
  map := fun q => by
    rw [(b.write_frame a v).2.2.2.2.2.2.2.2.2.2.2.2 q.1]
    split
    · next hc => rw [(b.cart.cpuWrite_frame a v).2.2.2.2, Cartridge.afterWrite_eq v (q.2 a List.mem_cons_self hc)]
    · rfl
  sampleByte := (b.write_frame a v).2.2.2.2.1
  buttons1 := (b.write_frame a v).2.2.2.2.2.1
  buttons2 := (b.write_frame a v).2.2.2.2.2.2.1
  nmiPending := (b.write_frame a v).2.2.1
  cycles := by simp
  devices := fun hd => by
    obtain ⟨h1, h2⟩ := hd a List.mem_cons_self
    have hr : (b.drive v).region a = b.region a := rfl
    unfold Bus.write Bus.accessWrite Bus.store
    rw [hr]
    split <;> first | contradiction | simp

/-- A write to such a cell leaves the addresses that name it as they are. -/
theorem Bus.write_sameCell {b : Bus} {a : Addr} (v : Byte) (hw : b.writable a = true) (k : Addr) :
    (b.write a v).sameCell k a = b.sameCell k a := by
  have h := b.write_storesOnly a v
  rcases Bus.writable_iff.mp hw with hr | ⟨-, -, hs⟩
  · exact Bus.sameCell_of_ram h.params hr k
  · refine Bus.sameCell_congr h.params (h.map ⟨Cartridge.quiet_of_selects hs, fun e he _ => ?_⟩) h.info k a
    rw [List.mem_singleton.mp he]; exact hs

end Sys2Proof.Machine
end

