-- ==== Sys2Proof/Laws/Exec.lean ====
section
/-! SUPPORT. Every arm of `exec` is its row's shape, run: one lemma for all 256 rows, and what a step can do. -/

namespace Sys2Proof

open Machine

/-- A Read-class operation on an operand. -/
def ReadOp.run (op : ReadOp) (o : Operand) (s : State) : State :=
  match op with
  | .lda => opLda o s
  | .ldx => opLdx o s
  | .ldy => opLdy o s
  | .lax => opLax o s
  | .adc => opAdc o s
  | .sbc => opSbc o s
  | .and => opAnd o s
  | .ora => opOra o s
  | .eor => opEor o s
  | .bit => opBit o s
  | .cmp => opCmp o s
  | .cpx => opCpx o s
  | .cpy => opCpy o s
  | .nop => opNop o s

/-- A Write-class operation on an address. -/
def WriteOp.run (op : WriteOp) (e : EaMode) (s : State) : State :=
  match op with
  | .sta => opSta e s
  | .stx => opStx e s
  | .sty => opSty e s
  | .sax => opSax e s

/-- An RMW-class operation on an address. -/
def RmwOp.run (op : RmwOp) (e : EaMode) (s : State) : State :=
  match op with
  | .asl => opAsl e s
  | .lsr => opLsr e s
  | .rol => opRol e s
  | .ror => opRor e s
  | .inc => opInc e s
  | .dec => opDec e s
  | .slo => opSlo e s
  | .rla => opRla e s
  | .sre => opSre e s
  | .rra => opRra e s
  | .dcp => opDcp e s
  | .isb => opIsb e s

/-- An operation on the accumulator. -/
def AccOp.run (op : AccOp) (s : State) : State :=
  match op with
  | .asl => opAslAcc s
  | .lsr => opLsrAcc s
  | .rol => opRolAcc s
  | .ror => opRorAcc s

/-- An implied operation. -/
def ImpliedOp.run (op : ImpliedOp) (s : State) : State :=
  match op with
  | .tax => opTax s
  | .tay => opTay s
  | .txa => opTxa s
  | .tya => opTya s
  | .tsx => opTsx s
  | .txs => opTxs s
  | .inx => opInx s
  | .iny => opIny s
  | .dex => opDex s
  | .dey => opDey s
  | .clc => opClc s
  | .sec => opSec s
  | .cli => opCli s
  | .sei => opSei s
  | .cld => opCld s
  | .sed => opSed s
  | .clv => opClv s
  | .nop => s.dummyFetch

/-- A shape, run. -/
def Shape.run (sh : Shape) (s : State) : State :=
  match sh with
  | .read op o => op.run o s
  | .write op e => op.run e s
  | .rmw op e => op.run e s
  | .acc op => op.run s
  | .implied op => op.run s
  | .branch op d => Machine.branch (branchTaken op s.flags) d s
  | .jmpAbs a => opJmpAbs a s
  | .jmpInd a => opJmpInd a s
  | .jsr a => opJsr a s
  | .rts => opRts s
  | .pha => opPha s
  | .php => opPhp s
  | .pla => opPla s
  | .plp => opPlp s
  | .brk _ => s.takeException .brk
  | .rti => s.dummyFetch.returnFromException
  | .refused op => s.raiseIllegal op

namespace Machine

/-- Every instruction runs its shape and answers a next state. -/
theorem exec_eq_run (i : Instr) (s : State) : exec i s = .next (i.shape.run s) := by
  cases i <;> rfl

/-- The row of a refused shape, and its opcode. -/
theorem Instr.shape_refused {i : Instr} {op : Byte} (h : i.shape = .refused op) : i.opcode = op ∧ op ∈ refusedOpcodes := by
  cases i <;> cases h <;> exact ⟨rfl, by decide⟩

/-- The bus after each instruction that works on the stack, cycle by cycle. -/
theorem opJsr_bus (a : Addr) (s : State) : (opJsr a s).bus =
    ((((s.bus.dummyRead (stackAddr s.sp)).write (stackAddr s.sp) (hi s.pc)).write (stackAddr (s.sp - 1)) (lo s.pc)).read s.pc).2 := by
  simp [opJsr]

theorem opRts_bus (s : State) : ∃ c : Addr, (opRts s).bus =
    ((((s.bus.dummyRead s.pc).dummyRead (stackAddr s.sp)).read (stackAddr (s.sp + 1))).2.read (stackAddr (s.sp + 1 + 1))).2.dummyRead c :=
  ⟨_, by simp only [opRts, State.dummyFetch_bus, State.dummyFetch_sp, State.raiseSp_bus, State.raiseSp_sp, State.popByte_bus,
    State.popByte_sp, State.readTop_bus, State.dummyRead_bus]; rfl⟩

theorem opPla_bus (s : State) : (opPla s).bus =
    (((s.bus.dummyRead s.pc).dummyRead (stackAddr s.sp)).read (stackAddr (s.sp + 1))).2 := by simp [opPla]

theorem opPlp_bus (s : State) : (opPlp s).bus =
    (((s.bus.dummyRead s.pc).dummyRead (stackAddr s.sp)).read (stackAddr (s.sp + 1))).2 := by simp [opPlp]

theorem State.returnFromException_bus (s : State) : s.returnFromException.bus =
    ((((s.bus.dummyRead (stackAddr s.sp)).read (stackAddr (s.sp + 1))).2.read (stackAddr (s.sp + 1 + 1))).2.read
      (stackAddr (s.sp + 1 + 1 + 1))).2 := by simp [State.returnFromException]

/-- No shape changes the inputs or a pending reset, and none but a refused one makes the machine fatal. -/
theorem shape_run_frame (sh : Shape) (s : State) :
    (sh.run s).inputs = s.inputs ∧ (sh.run s).resetPending = s.resetPending ∧
    ((∀ op, sh ≠ .refused op) → (sh.run s).fatal = s.fatal) := by
  cases sh with
  | read op o => cases op <;> exact ⟨rfl, rfl, fun _ => rfl⟩
  | write op e => cases op <;> exact ⟨rfl, rfl, fun _ => rfl⟩
  | rmw op e => cases op <;> exact ⟨rfl, rfl, fun _ => rfl⟩
  | acc op => cases op <;> exact ⟨rfl, rfl, fun _ => rfl⟩
  | implied op => cases op <;> exact ⟨rfl, rfl, fun _ => rfl⟩
  | branch op d =>
    simp only [Shape.run, branch]
    split
    · split <;> exact ⟨rfl, rfl, fun _ => rfl⟩
    · exact ⟨rfl, rfl, fun _ => rfl⟩
  | refused op => exact ⟨rfl, rfl, fun h => absurd rfl (h op)⟩
  | brk sig => refine ⟨?_, ?_, fun _ => ?_⟩ <;> simp [Shape.run, State.takeException]
  | rti => refine ⟨?_, ?_, fun _ => ?_⟩ <;> simp [Shape.run, State.returnFromException]
  | _ => simp [Shape.run, opJmpAbs, opJmpInd, opJsr, opRts, opPha, opPhp, opPla, opPlp]

/-- What a step can do: one inversion lemma for every invariant. -/
theorem step_cases {s t : State} (h : step s = .next t) :
    s.fatal = none ∧
    ((s.takeInputs.poll = .reset ∧ t = s.takeInputs.resetSequence.serviceDma) ∨
     (s.takeInputs.poll = .nmi ∧ t = (s.takeInputs.interruptEntry .nmi).serviceDma) ∨
     (s.takeInputs.poll = .irq ∧ t = (s.takeInputs.interruptEntry .irq).serviceDma) ∨
     (s.takeInputs.poll = .instruction ∧
       (s.takeInputs.fetchInstr.1.shape.run s.takeInputs.fetchInstr.2).fatal.isSome = true ∧
       t = s.takeInputs.fetchInstr.1.shape.run s.takeInputs.fetchInstr.2) ∨
     (s.takeInputs.poll = .instruction ∧
       (s.takeInputs.fetchInstr.1.shape.run s.takeInputs.fetchInstr.2).fatal.isSome = false ∧
       t = (s.takeInputs.fetchInstr.1.shape.run s.takeInputs.fetchInstr.2).serviceDma)) := by
  unfold step at h
  split at h
  · cases h
  · next hf =>
    refine ⟨hf, ?_⟩
    simp only [exec_eq_run, finishInstr] at h
    split at h
    · next hp => exact .inl ⟨hp, by simpa using h.symm⟩
    · next hp => exact .inr (.inl ⟨hp, by simpa using h.symm⟩)
    · next hp => exact .inr (.inr (.inl ⟨hp, by simpa using h.symm⟩))
    · next hp =>
      split at h
      · next hi => exact .inr (.inr (.inr (.inl ⟨hp, hi, by simpa using h.symm⟩)))
      · next hi => exact .inr (.inr (.inr (.inr ⟨hp, by simpa using hi, by simpa using h.symm⟩)))

end Machine

end Sys2Proof
end

