-- ==== Sys2Proof/Laws/Operands.lean ====
section
/-! SUPPORT. What the addressing modes can do: the address, the cycles, and the frame of each operand form. -/

namespace Sys2Proof.Machine

/-! ### The address -/

/-- The unfixed address of an indexed access is the effective one unless the low byte carries (40_addressing_modes.md R189). -/
theorem indexed_uncrossed (base : Addr) (i : Byte) :
    concat (hi base) (lo base + i) = base + i.setWidth 16 ↔ base.toNat % 256 + i.toNat < 256 := by
  have h1 := base.isLt
  have h2 := i.isLt
  rw [← BitVec.toNat_inj, concat_toNat, hi_toNat, BitVec.toNat_add, BitVec.toNat_add, lo_toNat]
  simp only [BitVec.toNat_setWidth]
  omega

@[simp] theorem indexed_address (cls : AccessClass) (base : Addr) (i : Byte) (b : Bus) :
    (indexed cls base i b).1 = base + i.setWidth 16 := by
  simp only [indexed]; split <;> rfl

/-- The class of an access does not change its address. -/
theorem resolve_address (cls cls' : AccessClass) (e : EaMode) (s : State) : (resolve cls e s).1 = (resolve cls' e s).1 := by
  cases e <;> simp [resolve]

/-! ### Frames -/

theorem indexed_keeps (cls : AccessClass) (base : Addr) (i : Byte) (b : Bus) : b.Keeps (indexed cls base i b).2 := by
  simp only [indexed]
  split
  · exact Bus.Keeps.refl b
  · exact b.dummyRead_keeps _

/-- Computing an address is reads only. -/
theorem resolve_keeps (cls : AccessClass) (e : EaMode) (s : State) : s.bus.Keeps (resolve cls e s).2 := by
  cases e with
  | zp z => exact Bus.Keeps.refl _
  | abs a => exact Bus.Keeps.refl _
  | zpX z => exact Bus.dummyRead_keeps _ _
  | zpY z => exact Bus.dummyRead_keeps _ _
  | absX a => exact indexed_keeps _ _ _ _
  | absY a => exact indexed_keeps _ _ _ _
  | indX z => exact ((Bus.dummyRead_keeps _ _).trans (Bus.read_keeps _ _)).trans (Bus.read_keeps _ _)
  | indY z => exact ((Bus.read_keeps _ _).trans (Bus.read_keeps _ _)).trans (indexed_keeps _ _ _ _)

/-- A Read-class operand is reads only. -/
theorem readOperand_keeps (o : Operand) (s : State) : s.bus.Keeps (readOperand o s).2 := by
  cases o with
  | imm m => exact Bus.Keeps.refl _
  | mem e => exact (resolve_keeps .read e s).trans (Bus.read_keeps _ _)

/-- A Write-class operand writes at its address only. -/
theorem storeOperand_storesOnly (e : EaMode) (v : Byte) (s : State) :
    s.bus.StoresOnly [(resolve .write e s).1] (storeOperand e v s) :=
  ((resolve_keeps .write e s).storesOnly _).trans (Bus.write_storesOnly _ _ _)

/-- An RMW-class operand writes at its address only. -/
theorem modifyOperand_storesOnly (e : EaMode) (f : Byte → AluResult) (s : State) :
    s.bus.StoresOnly [(resolve .rmw e s).1] (modifyOperand e f s).2 :=
  (((resolve_keeps .rmw e s).trans (Bus.read_keeps _ _)).storesOnly _).trans
    ((Bus.write_storesOnly _ _ _).trans (Bus.write_storesOnly _ _ _))

/-! ### Effects -/

/-- The operand read from storage is the byte stored at the address when it is read. -/
theorem readOperand_mem_value {e : EaMode} {s : State} {v : Byte}
    (h : (resolve .read e s).2.storage (resolve .read e s).1 = some v) : (readOperand (.mem e) s).1 = v :=
  Bus.read_value h

/-- The stored byte is what storage reads at the address afterwards. -/
theorem storeOperand_stores {e : EaMode} {s : State} {a : Addr} (v : Byte) (hw : s.bus.writable a = true)
    (h : (resolve .write e s).1 = a) : (storeOperand e v s).storage a = some v := by
  subst h
  exact Bus.write_storage_same v ((resolve_keeps .write e s).writable hw) (by simp)

/-- An RMW-class instruction reads the byte stored at the address. -/
theorem modifyOperand_value {e : EaMode} {f : Byte → AluResult} {s : State} {v : Byte}
    (h : (resolve .rmw e s).2.storage (resolve .rmw e s).1 = some v) : (modifyOperand e f s).1 = f v := by
  simp only [modifyOperand]
  rw [Bus.read_value h]

/-- An RMW-class instruction leaves its result in storage. -/
theorem modifyOperand_stores {e : EaMode} {f : Byte → AluResult} {s : State} {a : Addr} (hw : s.bus.writable a = true)
    (h : (resolve .rmw e s).1 = a) : (modifyOperand e f s).2.storage a = some (modifyOperand e f s).1.value := by
  subst h
  exact Bus.write_storage_same _
    (Bus.write_writable _ (((resolve_keeps .rmw e s).trans (Bus.read_keeps _ _)).writable hw)) (by simp)

/-! ### Cycles -/

theorem indexed_cycles (cls : AccessClass) (base : Addr) (i : Byte) (b : Bus) :
    (indexed cls base i b).2.cycles =
      b.cycles + (if cls = .read ∧ base.toNat % 256 + i.toNat < 256 then 0 else 1) := by
  simp only [indexed, indexed_uncrossed]
  split <;> simp

theorem storeOperand_cycles (e : EaMode) (v : Byte) (s : State) :
    (storeOperand e v s).cycles = (resolve .write e s).2.cycles + 1 := by simp [storeOperand]

theorem modifyOperand_cycles (e : EaMode) (f : Byte → AluResult) (s : State) :
    (modifyOperand e f s).2.cycles = (resolve .rmw e s).2.cycles + 3 := by simp [modifyOperand]

end Sys2Proof.Machine
end

