-- ==== Sys2Proof/Laws/Cycles.lean ====
section
/-! SUPPORT. How many cycles each mode and each shape takes. -/

namespace Sys2Proof.Machine

/-- The unfixed address is the effective one if and only if the page is the base's. -/
theorem concat_hi_eq (base : Addr) (i : Byte) : concat (hi base) (lo base + i) = base + i.setWidth 16 ↔ hi (base + i.setWidth 16) = hi base := by
  rw [indexed_uncrossed, ← BitVec.toNat_inj, hi_toNat, hi_toNat, BitVec.toNat_add]
  have := base.isLt; have := i.isLt
  simp only [BitVec.toNat_setWidth]
  omega

/-- An indexed access takes its page-cross cycle (R189, R194). -/
theorem indexed_cycles_cross (cls : AccessClass) (base : Addr) (i : Byte) (b : Bus) :
    (indexed cls base i b).2.cycles = b.cycles + (if cls = .read then crossCycle base i else 1) := by
  simp only [indexed, concat_hi_eq, crossCycle]
  by_cases h1 : cls = .read <;> by_cases h2 : hi (base + i.setWidth 16) = hi base <;> simp [h1, h2]

/-- The cycles that compute an effective address. -/
def modeCycles (cls : AccessClass) (e : EaMode) (s : State) : Nat :=
  match e with
  | .zp _ => 0
  | .zpX _ => 1
  | .zpY _ => 1
  | .abs _ => 0
  | .absX a => if cls = .read then crossCycle a s.x else 1
  | .absY a => if cls = .read then crossCycle a s.y else 1
  | .indX _ => 3
  | .indY z => 2 + if cls = .read then crossCycle (concat (Memory.byte s.bus.mem (z + 1).toNat) (Memory.byte s.bus.mem z.toNat)) s.y else 1

/-- The cycles of a mode. -/
theorem resolve_cycles (cls : AccessClass) (e : EaMode) (s : State) : (resolve cls e s).2.cycles = s.bus.cycles + modeCycles cls e s := by
  cases e <;> simp [resolve, modeCycles, indexed_cycles_cross]
  omega

/-- The cycles of a Read-class operand. -/
theorem readOperand_cycles (o : Operand) (s : State) : (readOperand o s).2.cycles = s.bus.cycles + (match o with | .imm _ => 0 | .mem e => modeCycles .read e s + 1) := by
  cases o <;> simp [readOperand, resolve_cycles]; omega

/-- A Read-class operation touches the bus through its operand only. -/
theorem readOp_run_bus (op : ReadOp) (o : Operand) (s : State) : (op.run o s).bus = (readOperand o s).2 := by cases op <;> rfl

/-- The cycles of the Write class. -/
theorem writeOp_run_cycles (op : WriteOp) (e : EaMode) (s : State) : (op.run e s).bus.cycles = s.bus.cycles + modeCycles .write e s + 1 := by
  cases op <;> simp [WriteOp.run, opSta, opStx, opSty, opSax, storeOperand_cycles, resolve_cycles]

/-- The cycles of the RMW class. -/
theorem rmwOp_run_cycles (op : RmwOp) (e : EaMode) (s : State) : (op.run e s).bus.cycles = s.bus.cycles + modeCycles .rmw e s + 3 := by
  cases op <;> simp [RmwOp.run, opAsl, opLsr, opRol, opRor, opInc, opDec, opSlo, opRla, opSre, opRra, opDcp, opIsb, modifyOperand_cycles, resolve_cycles]

/-- The cycle of an accumulator operation. -/
theorem accOp_run_cycles (op : AccOp) (s : State) : (op.run s).bus.cycles = s.bus.cycles + 1 := by
  cases op <;> simp [AccOp.run, opAslAcc, opLsrAcc, opRolAcc, opRorAcc]

/-- The cycle of an implied operation. -/
theorem impliedOp_run_cycles (op : ImpliedOp) (s : State) : (op.run s).bus.cycles = s.bus.cycles + 1 := by
  cases op <;> exact Bus.dummyRead_cycles _ _

/-- The cycles a shape takes after the fetch. -/
def shapeCycles (sh : Shape) (s : State) : Nat :=
  match sh with
  | .read _ (.imm _) => 0
  | .read _ (.mem e) => modeCycles .read e s + 1
  | .write _ e => modeCycles .write e s + 1
  | .rmw _ e => modeCycles .rmw e s + 3
  | .acc _ => 1
  | .implied _ => 1
  | .branch op d => if branchTaken op s.flags then (if hi (s.pc + sext8 d) = hi s.pc then 1 else 2) else 0
  | .jmpAbs _ => 0
  | .jmpInd _ => 2
  | .jsr _ => 4
  | .rts => 5
  | .pha => 2
  | .php => 2
  | .pla => 3
  | .plp => 3
  | .brk _ => 5
  | .rti => 5
  | .refused _ => 0

/-- A shape takes its cycles. -/
theorem shape_run_cycles (sh : Shape) (s : State) : (sh.run s).bus.cycles = s.bus.cycles + shapeCycles sh s := by
  cases sh with
  | read op o => cases o <;> simp [Shape.run, readOp_run_bus, readOperand_cycles, shapeCycles]
  | write op e => simp [Shape.run, writeOp_run_cycles, shapeCycles]; omega
  | rmw op e => simp [Shape.run, rmwOp_run_cycles, shapeCycles]; omega
  | acc op => simp [Shape.run, accOp_run_cycles, shapeCycles]
  | implied op => simp [Shape.run, impliedOp_run_cycles, shapeCycles]
  | branch op d =>
    simp only [Shape.run, branch, shapeCycles]
    split
    · split <;> simp
    · rfl
  | jmpAbs a => rfl
  | jmpInd a => simp [Shape.run, opJmpInd, shapeCycles]
  | jsr a => simp [Shape.run, opJsr, shapeCycles]
  | rts => simp [Shape.run, opRts, shapeCycles]
  | pha => simp [Shape.run, opPha, shapeCycles]
  | php => simp [Shape.run, opPhp, shapeCycles]
  | pla => simp [Shape.run, opPla, shapeCycles]
  | plp => simp [Shape.run, opPlp, shapeCycles]
  | brk g => simp [Shape.run, State.takeException, shapeCycles]
  | rti => simp [Shape.run, State.returnFromException, shapeCycles]
  | refused op => rfl

/-- The cycles of a mode without a page cross. -/
def modeFixed (cls : AccessClass) (e : EaMode) : Nat :=
  match e with
  | .zp _ => 0
  | .zpX _ => 1
  | .zpY _ => 1
  | .abs _ => 0
  | .absX _ => if cls = .read then 0 else 1
  | .absY _ => if cls = .read then 0 else 1
  | .indX _ => 3
  | .indY _ => if cls = .read then 2 else 3

/-- The cycles of a shape without a page cross and without a taken branch. -/
def shapeFixed (sh : Shape) : Nat :=
  match sh with
  | .read _ (.imm _) => 0
  | .read _ (.mem e) => modeFixed .read e + 1
  | .write _ e => modeFixed .write e + 1
  | .rmw _ e => modeFixed .rmw e + 3
  | .acc _ => 1
  | .implied _ => 1
  | .branch _ _ => 0
  | .jmpAbs _ => 0
  | .jmpInd _ => 2
  | .jsr _ => 4
  | .rts => 5
  | .pha => 2
  | .php => 2
  | .pla => 3
  | .plp => 3
  | .brk _ => 5
  | .rti => 5
  | .refused _ => 0

end Sys2Proof.Machine
end

