-- ==== Sys2Proof/Laws/Devices.lean ====
section
/-! SUPPORT. What idle cycles, the OAM DMA and the inputs can do. -/

namespace Sys2Proof.Machine

/-- Idle cycles (R95): time passes, and nothing else that only a write changes. -/
theorem Bus.idle_spec (n : Nat) (b : Bus) : b.Keeps (Bus.idle n b) ∧ (Bus.idle n b).cycles = b.cycles + n := by
  induction n generalizing b with
  | zero => exact ⟨Bus.Keeps.refl b, rfl⟩
  | succ n ih =>
    obtain ⟨h1, h2⟩ := ih b.tick
    exact ⟨b.tick_keeps.trans h1, by rw [Bus.idle, h2, Bus.tick_cycles]; omega⟩

/-- What a transfer of an OAM DMA leaves alone: all storage, and every request. -/
structure Bus.OamOnly (b b' : Bus) : Prop where
  params : b'.params = b.params
  mem : b'.mem = b.mem
  dma : b'.dma = b.dma
  rom : b'.cart.rom = b.cart.rom
  work : b'.cart.work = b.cart.work
  mapper : b'.cart.mapper = b.cart.mapper
  cart : b.cart.quiet = true → b'.cart = b.cart

theorem Bus.OamOnly.trans {b c d : Bus} (h : b.OamOnly c) (k : c.OamOnly d) : b.OamOnly d where
  params := k.params.trans h.params
  mem := k.mem.trans h.mem
  dma := k.dma.trans h.dma
  rom := k.rom.trans h.rom
  work := k.work.trans h.work
  mapper := k.mapper.trans h.mapper
  cart := fun q => (k.cart ((Cartridge.quiet_congr h.mapper).trans q)).trans (h.cart q)

theorem Bus.Keeps.oamOnly {b c : Bus} (h : b.Keeps c) : b.OamOnly c :=
  ⟨h.params, h.mem, h.dma, h.rom, h.work, h.mapper, h.cart⟩

/-- Storage is as before wherever a mapper has not moved it. -/
theorem Bus.OamOnly.storage {b c : Bus} (h : b.OamOnly c) {a : Addr} (hs : b.still a = true) : c.storage a = b.storage a := by
  rcases Bus.still_iff.mp hs with hr | hq
  · rw [Bus.storage_ram hr, Bus.storage_ram ((Bus.region_congr h.params a).trans hr), h.mem, Bus.cell_congr h.params]
  · simp [Bus.storage, Bus.region_congr h.params, h.mem, h.cart hq, Bus.cell_congr h.params]

/-- A write of OAMDATA, on the map of R83. -/
theorem Bus.write_oamData {b : Bus} (v : Byte) (hp : b.params.platform = .nes) :
    b.OamOnly (b.write oamDataAddr v) ∧
    (b.write oamDataAddr v).ppu.oam = Memory.write b.ppu.oam b.ppu.oamAddr.toNat v ∧
    (b.write oamDataAddr v).ppu.oamAddr = b.ppu.oamAddr + 1 := by
  have hr : b.region oamDataAddr = .ppu := Bus.region_eq_ppu.mpr ⟨hp, by decide, by decide⟩
  have hd : (b.drive v).region oamDataAddr = .ppu := hr
  have e : oamDataAddr.toNat % 8 = 4 := by decide
  obtain ⟨h1, -, -, -, -, -, -, h8, -, h10, h11, h12, h13⟩ := b.write_frame oamDataAddr v
  refine ⟨⟨h1, by simpa [hr] using h8, ?_, h11, by simpa [hr] using h12, h10, fun q => by simpa [hr] using h13 q⟩, ?_, ?_⟩ <;>
    simp [Bus.write, Bus.accessWrite, Bus.store, hd, e, Bus.ppuWrite]

/-- The transfers of an OAM DMA (R95). -/
theorem Bus.oamCopy_spec (page : Byte) (n : Nat) {b : Bus} (hp : b.params.platform = .nes) :
    b.OamOnly (Bus.oamCopy page n b) ∧ (Bus.oamCopy page n b).cycles = b.cycles + 2 * n := by
  induction n generalizing b with
  | zero => exact ⟨(Bus.Keeps.refl b).oamOnly, rfl⟩
  | succ n ih =>
    have hk := b.read_keeps (concat page (BitVec.ofNat 8 (255 - n)))
    have hw := Bus.write_oamData (b.read (concat page (BitVec.ofNat 8 (255 - n)))).1 ((congrArg Params.platform hk.params).trans hp)
    obtain ⟨h1, h2⟩ := ih (b := (b.read (concat page (BitVec.ofNat 8 (255 - n)))).2.write oamDataAddr
      (b.read (concat page (BitVec.ofNat 8 (255 - n)))).1) (by simpa using hp)
    refine ⟨(hk.oamOnly.trans hw.1).trans h1, ?_⟩
    simp only [Bus.oamCopy]
    rw [h2]
    simp
    omega

/-- A write of a byte to 0x4014 requests the OAM DMA of that page (R95). -/
theorem Bus.write_oamDmaRequest {b : Bus} (v : Byte) (hp : b.params.platform = .nes) :
    (b.write 0x4014 v).dma = { b.dma with oam := some v } := by
  have h : (b.drive v).region 0x4014 = .io := Bus.region_eq_io.mpr ⟨hp, by decide, by decide⟩
  have e : (0x4014 : Addr).toNat - 0x4000 = 0x14 := by decide
  simp only [Bus.write, Bus.accessWrite, Bus.store, h, e, Bus.ioWrite, Bus.tick_dma, Bus.observe_dma, Bus.drive_dma]

/-- No write changes the DMC's request, which is the APU's (R97). -/
theorem Bus.write_dmcRequest (b : Bus) (a : Addr) (v : Byte) : (b.write a v).dma.dmc = b.dma.dmc := by
  simp only [Bus.write, Bus.accessWrite, Bus.tick_dma, Bus.observe_dma]
  unfold Bus.store
  split
  · rfl
  · rw [(Bus.ppuWrite_frame _ _ _).2.2.2.2.2.2.2.2.1]; rfl
  · rw [(Bus.ioWrite_frame _ _ _).2.2.2.2.2.2.2.2.2.2.1]; rfl
  · rfl
  · rfl

/-- An OAM DMA ends its own request and leaves the DMC's (R96, R97). -/
theorem Bus.oamDma_dma (b : Bus) (page : Byte) : (b.oamDma page).dma = { b.dma with oam := none } := by
  have hc : ∀ n b, (Bus.oamCopy page n b).dma.dmc = b.dma.dmc := by
    intro n
    induction n with
    | zero => intro b; rfl
    | succ n ih => intro b; rw [Bus.oamCopy, ih, Bus.write_dmcRequest, (Bus.read_keeps _ _).dma]
  simp only [Bus.oamDma, hc, (Bus.idle_spec b.oamAlign b).1.dma]

/-- The DMC fetch of a byte of storage delivers it (R97). -/
theorem Bus.dmcDma_value {b : Bus} {a : Addr} {v : Byte} (h : b.storage a = some v) (hs : b.still a = true) :
    (b.dmcDma a).apu.sampleByte = v := by
  show ((Bus.idle b.params.dmcIdle b).read a).1 = v
  exact Bus.read_value (((Bus.idle_spec _ _).1.storage hs).trans h)

/-- What an input leaves alone (R446): the CPU's memory and every byte of the cartridge. -/
theorem State.applyEvent_frame (s : State) (e : PlatformEvent) :
    (s.applyEvent e).bus.params = s.bus.params ∧ (s.applyEvent e).bus.mem = s.bus.mem ∧
    (s.applyEvent e).bus.cart.rom = s.bus.cart.rom ∧ (s.applyEvent e).bus.cart.work = s.bus.cart.work ∧
    ∀ a, (s.applyEvent e).bus.storage a = s.bus.storage a := by
  cases e <;> exact ⟨rfl, rfl, rfl, rfl, fun _ => rfl⟩

end Sys2Proof.Machine
end

