-- ==== Sys2Proof/Laws/Encoding.lean ====
section
/-! SUPPORT. The decoder reads back what the encoder writes. -/

namespace Sys2Proof

/-- The row an opcode selects, given the operand bytes of an instruction of that opcode, is the instruction. -/
theorem instrOf_shape_bytes (i : Instr) (x y : Byte) :
    instrOf i.opcode (i.shape.bytes.getD 0 x) (i.shape.bytes.getD 1 y) = i := by
  cases i <;> simp only [Instr.opcode, Instr.shape, Shape.bytes, Operand.bytes, EaMode.bytes] <;>
    first
    | rfl
    | exact congrArg _ (Machine.concat_hi_lo _)

/-- The opcode alone fixes the length (30_encoding.md R142). -/
theorem instrOf_length (i : Instr) (x y : Byte) : (instrOf i.opcode x y).length = i.length := by
  cases i <;> simp only [Instr.opcode] <;> rfl

/-- A word's bytes, as many as its opcode says, are the encoding of the row its opcode selects. -/
theorem encode_instrOf (op x y : Byte) : encode (instrOf op x y) = [op, x, y].take (instrOf op 0 0).length := by
  have key : ∀ n, n < 256 → encode (instrOf (BitVec.ofNat 8 n) x y) =
      [BitVec.ofNat 8 n, x, y].take (instrOf (BitVec.ofNat 8 n) 0 0).length := by
    intro n hn
    interval_cases n <;> first
      | rfl
      | exact congrArg₂ (fun l h => [_, l, h]) (Machine.lo_concat y x) (Machine.hi_concat y x)
  simpa using key op.toNat op.isLt

/-- The row an opcode selects has that opcode. -/
theorem instrOf_opcode (op x y : Byte) : (instrOf op x y).opcode = op := by
  have h := encode_instrOf op x y
  cases hl : (instrOf op 0 0).length with
  | zero => exact absurd hl (Nat.ne_of_gt (Nat.lt_of_lt_of_le Nat.zero_lt_one (Nat.le_add_right _ _)))
  | succ n => rw [hl, List.take_succ_cons] at h; exact (List.cons.inj h).1

/-- Lengths are 1, 2 and 3 (30_encoding.md R140). -/
theorem Instr.length_cases (i : Instr) : i.length = 1 ∨ i.length = 2 ∨ i.length = 3 := by
  unfold Instr.length
  cases i.shape with
  | read op o =>
    cases o with
    | imm m => simp [Shape.bytes, Operand.bytes]
    | mem e => cases e <;> simp [Shape.bytes, Operand.bytes, EaMode.bytes]
  | write op e => cases e <;> simp [Shape.bytes, EaMode.bytes]
  | rmw op e => cases e <;> simp [Shape.bytes, EaMode.bytes]
  | _ => simp [Shape.bytes]

theorem decode_length_one {op : Byte} (h : (instrOf op 0 0).length = 1) (rest : List Byte) :
    decode (op :: rest) = .instr (instrOf op 0 0) rest := by
  simp only [decode]
  split <;> simp_all

theorem decode_length_two {op : Byte} (h : (instrOf op 0 0).length = 2) (b1 : Byte) (rest : List Byte) :
    decode (op :: b1 :: rest) = .instr (instrOf op b1 0) rest := by
  simp only [decode]
  split <;> simp_all

theorem decode_length_three {op : Byte} (h : (instrOf op 0 0).length = 3) (b1 b2 : Byte) (rest : List Byte) :
    decode (op :: b1 :: b2 :: rest) = .instr (instrOf op b1 b2) rest := by
  simp only [decode]
  split <;> simp_all

end Sys2Proof
end

