-- ==== Sys2Proof/Laws/Flags.lean ====
section
/-! SUPPORT. What the flag computations give, in numbers. -/

namespace Sys2Proof.Machine

/-- A flag as a number. -/
theorem bitNat_eq (b : Bool) : bitNat b = b.toNat := by cases b <;> rfl

/-- Bit 7 as a mask and as a bound. -/
theorem and_80_ne_zero (x : Byte) : ((x &&& 0x80) != 0) = decide (x.toNat ≥ 128) := by
  revert x; decide +kernel

/-- Bit 7 is the sign bit. -/
theorem getLsbD_7 (x : Byte) : x.getLsbD 7 = decide (x.toNat ≥ 128) := by revert x; decide +kernel

/-- Bit 7 as a mask. -/
theorem and_80_getLsbD (x : Byte) : ((x &&& 0x80) != 0) = x.getLsbD 7 := by rw [and_80_ne_zero, getLsbD_7]

/-- The complement of a byte. -/
theorem xor_ff_toNat (x : Byte) : (0xFF ^^^ x).toNat = 255 - x.toNat := by revert x; decide +kernel

/-- A byte in two's complement. -/
theorem byte_toInt (x : Byte) : x.toInt = if x.toNat ≥ 128 then (x.toNat : Int) - 256 else x.toNat := by
  revert x; decide +kernel

/-- ASL doubles (R300). -/
theorem shiftLeft_eq (m : Byte) (f : Flags) : shiftLeft m f = ⟨BitVec.ofNat 8 (2 * m.toNat), { f with n := (BitVec.ofNat 8 (2 * m.toNat)).getLsbD 7, z := BitVec.ofNat 8 (2 * m.toNat) == 0, c := m.getLsbD 7 }⟩ := by
  have : m <<< 1 = BitVec.ofNat 8 (2 * m.toNat) := by
    apply BitVec.eq_of_toNat_eq; simp [BitVec.toNat_shiftLeft, Nat.shiftLeft_eq]; omega
  simp only [shiftLeft, Flags.setNZ, this]

/-- LSR halves (R301). -/
theorem shiftRight_eq (m : Byte) (f : Flags) : shiftRight m f = ⟨BitVec.ofNat 8 (m.toNat / 2), { f with n := (BitVec.ofNat 8 (m.toNat / 2)).getLsbD 7, z := BitVec.ofNat 8 (m.toNat / 2) == 0, c := m.getLsbD 0 }⟩ := by
  have : m >>> 1 = BitVec.ofNat 8 (m.toNat / 2) := by
    apply BitVec.eq_of_toNat_eq; simp [BitVec.toNat_ushiftRight, Nat.shiftRight_eq_div_pow]; omega
  simp only [shiftRight, Flags.setNZ, this]

/-- ROL doubles and adds C (R302). -/
theorem rotateLeft_value (m : Byte) (c : Bool) : (m <<< 1) ||| BitVec.ofNat 8 (bitNat c) = BitVec.ofNat 8 (2 * m.toNat + c.toNat) := by
  revert m c; decide +kernel

/-- ROR halves and brings C in at bit 7 (R303). -/
theorem rotateRight_value (m : Byte) (c : Bool) : (m >>> 1) ||| (BitVec.ofNat 8 (bitNat c) <<< 7) = BitVec.ofNat 8 (m.toNat / 2 + 128 * c.toNat) := by
  revert m c; decide +kernel

/-- ROL, whole (R302). -/
theorem rotateLeft_eq (m : Byte) (f : Flags) : rotateLeft m f = ⟨BitVec.ofNat 8 (2 * m.toNat + f.c.toNat), { f with n := (BitVec.ofNat 8 (2 * m.toNat + f.c.toNat)).getLsbD 7, z := BitVec.ofNat 8 (2 * m.toNat + f.c.toNat) == 0, c := m.getLsbD 7 }⟩ := by
  simp only [rotateLeft, Flags.setNZ, rotateLeft_value]

/-- ROR, whole (R303). -/
theorem rotateRight_eq (m : Byte) (f : Flags) : rotateRight m f = ⟨BitVec.ofNat 8 (m.toNat / 2 + 128 * f.c.toNat), { f with n := (BitVec.ofNat 8 (m.toNat / 2 + 128 * f.c.toNat)).getLsbD 7, z := BitVec.ofNat 8 (m.toNat / 2 + 128 * f.c.toNat) == 0, c := m.getLsbD 0 }⟩ := by
  simp only [rotateRight, Flags.setNZ, rotateRight_value]

/-- P pulled is P pushed, whatever bit 4 was (R38). -/
theorem Flags.unpack_pack (f : Flags) (b : Bool) : Flags.unpack (f.pack b) = f := by
  obtain ⟨c, z, i, d, v, n⟩ := f
  cases b <;> cases c <;> cases z <;> cases i <;> cases d <;> cases v <;> cases n <;> rfl

end Sys2Proof.Machine
end

