-- ==== Sys2Proof/Laws/Invariant.lean ====
section
/-! SUPPORT. Which operations keep `Bus.Inv`, from one bus cycle up to a step. -/

namespace Sys2Proof.Machine

/-! ### One bus cycle -/

theorem Ppu.mark_position (p : Ppu) : p.mark.scanline = p.scanline ∧ p.mark.dot = p.dot := by
  unfold Ppu.mark
  repeat' split
  all_goals simp

/-- The raster stays on the screen. -/
theorem Ppu.advance_inRange {p : Ppu} (hs : p.scanline ≤ 261) (hd : p.dot ≤ 340) :
    p.advance.scanline ≤ 261 ∧ p.advance.dot ≤ 340 := by
  unfold Ppu.advance
  simp only [Ppu.settle_keeps]
  rw [(Ppu.mark_position _).1, (Ppu.mark_position _).2]
  unfold Ppu.move
  split
  · split
    · exact ⟨Nat.zero_le _, Nat.zero_le _⟩
    · exact ⟨by simp only; omega, Nat.zero_le _⟩
  · next h =>
    refine ⟨hs, ?_⟩
    simp only [Ppu.lastDot, Bool.or_eq_true, decide_eq_true_eq, not_or] at h
    simp only
    omega

/-- The invariant but for the sampled NMI level, which a tick samples: what the access of a cycle must keep. -/
structure Bus.Stored (b : Bus) : Prop where
  mem : Memory.wf b.mem = true
  cells : ∀ c ∈ b.mem, c.1 < ramCells b.params.platform
  rom : Memory.wf b.cart.rom = true
  romCells : ∀ c ∈ b.cart.rom, c.1 < b.cart.info.romSize
  work : Memory.wf b.cart.work = true
  workCells : ∀ c ∈ b.cart.work, c.1 < b.cart.info.ramSize
  oam : Memory.wf b.ppu.oam = true
  oamCells : ∀ c ∈ b.ppu.oam, c.1 < 256
  regs : Memory.wf b.apu.regs = true
  regCells : ∀ c ∈ b.apu.regs, c.1 < 0x18
  scanline : b.ppu.scanline ≤ 261
  dot : b.ppu.dot ≤ 340
  ctrl : b.ppu.ctrl.Applied
  mask : b.ppu.mask.Applied
  scrollX : b.ppu.scrollX.Applied
  scrollY : b.ppu.scrollY.Applied
  clock : b.apu.clock = b.cycles
  shift1 : b.pad1.shift.length ≤ 8
  shift2 : b.pad2.shift.length ≤ 8

theorem Bus.Inv.stored {b : Bus} (h : b.Inv) : b.Stored := { h with }

/-- A tick samples the NMI level and keeps the rest. -/
theorem Bus.Stored.tick {b : Bus} (h : b.Stored) : b.tick.Inv where
  mem := by simpa using h.mem
  cells := by simpa using h.cells
  rom := by simpa [Cartridge.tick_keeps] using h.rom
  romCells := by simpa [Cartridge.tick_keeps] using h.romCells
  work := by simpa [Cartridge.tick_keeps] using h.work
  workCells := by simpa [Cartridge.tick_keeps] using h.workCells
  oam := by simpa using h.oam
  oamCells := by simpa using h.oamCells
  regs := by simpa using h.regs
  regCells := by simpa using h.regCells
  scanline := by
    have h1 := Ppu.advance_inRange h.scanline h.dot
    have h2 := Ppu.advance_inRange h1.1 h1.2
    simpa using (Ppu.advance_inRange h2.1 h2.2).1
  dot := by
    have h1 := Ppu.advance_inRange h.scanline h.dot
    have h2 := Ppu.advance_inRange h1.1 h1.2
    simpa using (Ppu.advance_inRange h2.1 h2.2).2
  ctrl := b.tick_keeps.ctrl.applied h.ctrl
  mask := b.tick_keeps.mask.applied h.mask
  scrollX := b.tick_keeps.scrollX.applied h.scrollX
  scrollY := b.tick_keeps.scrollY.applied h.scrollY
  line := by simp
  clock := by simpa using h.clock
  shift1 := by simpa using h.shift1
  shift2 := by simpa using h.shift2

/-- An idle cycle keeps the invariant. -/
theorem Bus.Inv.idleTick {b : Bus} (h : b.Inv) : b.tick.Inv := h.stored.tick

/-- The mapper's observation changes no byte. -/
theorem Bus.Stored.observe {b : Bus} (h : b.Stored) (w : Bool) (a : Addr) (v : Byte) : (b.observe w a v).Stored :=
  { h with
    rom := by simpa [Cartridge.observe_keeps] using h.rom
    romCells := by simpa [Cartridge.observe_keeps] using h.romCells
    work := by simpa [Cartridge.observe_keeps] using h.work
    workCells := by simpa [Cartridge.observe_keeps] using h.workCells }

/-- A read keeps the invariant. -/
theorem Bus.Inv.read {b : Bus} (h : b.Inv) (a : Addr) : (b.read a).2.Inv := by
  obtain ⟨hk, hcart, hcy, -, -, hs, hd, -, hcl, h1, h2⟩ := b.answer_frame a
  refine Bus.Stored.tick (Bus.Stored.observe ?_ _ _ _)
  exact {
    mem := hk.mem ▸ h.mem
    cells := by rw [hk.mem, hk.params]; exact h.cells
    rom := hcart ▸ h.rom
    romCells := hcart ▸ h.romCells
    work := hcart ▸ h.work
    workCells := hcart ▸ h.workCells
    oam := hk.oam ▸ h.oam
    oamCells := hk.oam ▸ h.oamCells
    regs := hk.regs ▸ h.regs
    regCells := hk.regs ▸ h.regCells
    scanline := hs ▸ h.scanline
    dot := hd ▸ h.dot
    ctrl := hk.ctrl.applied h.ctrl
    mask := hk.mask.applied h.mask
    scrollX := hk.scrollX.applied h.scrollX
    scrollY := hk.scrollY.applied h.scrollY
    clock := by rw [hcl, hcy]; exact h.clock
    shift1 := h1.trans h.shift1
    shift2 := h2.trans h.shift2 }

theorem Bus.Inv.dummyRead {b : Bus} (h : b.Inv) (a : Addr) : (b.dummyRead a).Inv := h.read a

theorem Memory.write_cells {m : Memory} {p : Nat → Prop} {a : Nat} (v : Byte) (h : ∀ c ∈ m, p c.1) (ha : p a) :
    ∀ c ∈ Memory.write m a v, p c.1 := by
  intro c hc
  rcases Memory.mem_write hc with rfl | hc
  · exact ha
  · exact h c hc

theorem Bus.Stored.ppuWrite {b : Bus} (h : b.Stored) (r : Nat) (v : Byte) : (b.ppuWrite r v).Stored := by
  unfold Bus.ppuWrite
  repeat' split
  all_goals first
    | exact { h with }
    | exact { h with ctrl := Latched.write_applied _ _ _ }
    | exact { h with mask := Latched.write_applied _ _ _ }
    | exact { h with scrollX := Latched.write_applied _ _ _ }
    | exact { h with scrollY := Latched.write_applied _ _ _ }
    | exact { h with
        oam := Memory.wf_write _ _ h.oam
        oamCells := Memory.write_cells (p := fun k => k < 256) _ h.oamCells b.ppu.oamAddr.isLt }

theorem Controller.strobe_length (c : Controller) : c.strobe.shift.length ≤ 8 := by simp [Controller.strobe, buttonBits]

theorem Bus.Stored.ioWrite {b : Bus} (h : b.Stored) {r : Nat} (hr : r < 0x18) (v : Byte) : (b.ioWrite r v).Stored := by
  unfold Bus.ioWrite
  split
  · exact { h with }
  · split
    · exact { h with shift1 := b.pad1.strobe_length, shift2 := b.pad2.strobe_length }
    · exact h
  · exact { h with
      regs := Memory.wf_write _ _ h.regs
      regCells := Memory.write_cells (p := fun k => k < 0x18) _ h.regCells hr }

theorem Bus.Stored.cpuWrite {b : Bus} (h : b.Stored) (a : Addr) (v : Byte) : { b with cart := b.cart.cpuWrite a v }.Stored := by
  have hw : Memory.wf (b.cart.store a v).work = true ∧ ∀ c ∈ (b.cart.store a v).work, c.1 < b.cart.info.ramSize := by
    unfold Cartridge.store
    split
    · next k hk =>
      exact ⟨Memory.wf_write _ _ h.work,
        Memory.write_cells (p := fun k => k < b.cart.info.ramSize) _ h.workCells (Cartridge.target_ram_lt hk)⟩
    · exact ⟨h.work, h.workCells⟩
    · exact ⟨h.work, h.workCells⟩
  obtain ⟨h1, -, h3, h4, -⟩ := b.cart.cpuWrite_frame a v
  exact { h with
    rom := h3 ▸ h.rom
    romCells := by simp only [h3, h1]; exact h.romCells
    work := h4 ▸ hw.1
    workCells := by simp only [h4, h1]; exact hw.2 }

/-- A write keeps the invariant. -/
theorem Bus.Inv.write {b : Bus} (h : b.Inv) (a : Addr) (v : Byte) : (b.write a v).Inv := by
  refine Bus.Stored.tick (Bus.Stored.observe ?_ _ _ _)
  have hd : (b.drive v).Stored := { h.stored with }
  unfold Bus.store
  split
  · exact { hd with
      mem := Memory.wf_write _ _ h.mem
      cells := Memory.write_cells (p := fun k => k < ramCells b.params.platform) _ h.cells ((b.drive v).cell_lt a) }
  · exact hd.ppuWrite _ v
  · next hr =>
    have := Bus.region_eq_io.mp hr
    exact hd.ioWrite (by omega) v
  · exact hd
  · exact hd.cpuWrite a v

/-- The fields the invariant does not speak of can change. -/
theorem Bus.Inv.latches {b : Bus} (h : b.Inv) (n : Bool) (d : DmaRequest) : { b with nmiPending := n, dma := d }.Inv :=
  { h with }

/-! ### An instruction -/

theorem indexed_inv {b : Bus} (h : b.Inv) (cls : AccessClass) (base : Addr) (i : Byte) : (indexed cls base i b).2.Inv := by
  simp only [indexed]
  split
  · exact h
  · exact h.dummyRead _

theorem resolve_inv {s : State} (h : s.bus.Inv) (cls : AccessClass) (e : EaMode) : (resolve cls e s).2.Inv := by
  cases e with
  | zp z => exact h
  | abs a => exact h
  | zpX z => exact h.dummyRead _
  | zpY z => exact h.dummyRead _
  | absX a => exact indexed_inv h _ _ _
  | absY a => exact indexed_inv h _ _ _
  | indX z => exact ((h.dummyRead _).read _).read _
  | indY z => exact indexed_inv ((h.read _).read _) _ _ _

theorem readOperand_inv {s : State} (h : s.bus.Inv) (o : Operand) : (readOperand o s).2.Inv := by
  cases o with
  | imm m => exact h
  | mem e => exact (resolve_inv h _ e).read _

theorem storeOperand_inv {s : State} (h : s.bus.Inv) (e : EaMode) (v : Byte) : (storeOperand e v s).Inv :=
  (resolve_inv h _ e).write _ _

theorem modifyOperand_inv {s : State} (h : s.bus.Inv) (e : EaMode) (f : Byte → AluResult) : (modifyOperand e f s).2.Inv :=
  (((resolve_inv h _ e).read _).write _ _).write _ _

theorem State.loadVector_inv {s : State} (h : s.bus.Inv) (v : Addr) : (s.loadVector v).bus.Inv := (h.read _).read _

theorem State.takeException_inv {s : State} (h : s.bus.Inv) (k : Entry) : (s.takeException k).bus.Inv := by
  simp only [State.takeException]
  refine State.loadVector_inv ?_ _
  split
  · exact (((h.write _ _).write _ _).write _ _).latches _ _
  · exact ((h.write _ _).write _ _).write _ _

theorem State.interruptEntry_inv {s : State} (h : s.bus.Inv) (k : Entry) : (s.interruptEntry k).bus.Inv :=
  State.takeException_inv ((h.dummyRead _).dummyRead _) k

theorem State.resetSequence_inv {s : State} (h : s.bus.Inv) : s.resetSequence.bus.Inv :=
  State.loadVector_inv ((((((h.dummyRead _).dummyRead _).dummyRead _).dummyRead _).dummyRead _).latches false {}) _

/-- Every shape keeps the invariant of the bus. -/
theorem shape_run_inv (sh : Shape) {s : State} (h : s.bus.Inv) : (sh.run s).bus.Inv := by
  cases sh with
  | read op o => cases op <;> exact readOperand_inv h o
  | write op e => cases op <;> exact storeOperand_inv h e _
  | rmw op e =>
    cases op <;> simp only [Shape.run, RmwOp.run, opAsl, opLsr, opRol, opRor, opInc, opDec, opSlo, opRla, opSre, opRra, opDcp,
      opIsb] <;> exact modifyOperand_inv h e _
  | acc op => cases op <;> exact h.dummyRead _
  | implied op => cases op <;> exact h.dummyRead _
  | branch op d =>
    simp only [Shape.run, branch]
    split
    · split
      · exact h.dummyRead _
      · exact (h.dummyRead _).dummyRead _
    · exact h
  | jmpAbs a => exact h
  | jmpInd a => exact (h.read _).read _
  | jsr a => simp only [Shape.run, opJsr_bus]; exact (((h.dummyRead _).write _ _).write _ _).read _
  | rts =>
    obtain ⟨c, hc⟩ := opRts_bus s
    simp only [Shape.run, hc]
    exact ((((h.dummyRead _).dummyRead _).read _).read _).dummyRead _
  | pha => exact (h.dummyRead _).write _ _
  | php => exact (h.dummyRead _).write _ _
  | pla => simp only [Shape.run, opPla_bus]; exact ((h.dummyRead _).dummyRead _).read _
  | plp => simp only [Shape.run, opPlp_bus]; exact ((h.dummyRead _).dummyRead _).read _
  | brk _ => exact State.takeException_inv h _
  | rti =>
    simp only [Shape.run, State.returnFromException_bus, State.dummyFetch_bus]
    exact ((((h.dummyRead _).dummyRead _).read _).read _).read _
  | refused op => exact h

theorem State.fetchByte_inv {s : State} (h : s.bus.Inv) : s.fetchByte.2.bus.Inv := h.read _

theorem State.fetchInstr_inv {s : State} (h : s.bus.Inv) : s.fetchInstr.2.bus.Inv := by
  simp only [State.fetchInstr]
  repeat' split
  · exact State.fetchByte_inv h
  · exact State.fetchByte_inv (State.fetchByte_inv h)
  · exact State.fetchByte_inv (State.fetchByte_inv h)
  · exact State.fetchByte_inv (State.fetchByte_inv (State.fetchByte_inv h))

/-! ### DMA -/

theorem Bus.idle_inv (n : Nat) {b : Bus} (h : b.Inv) : (Bus.idle n b).Inv := by
  induction n generalizing b with
  | zero => exact h
  | succ n ih => exact ih h.idleTick

theorem Bus.oamCopy_inv (page : Byte) (n : Nat) {b : Bus} (h : b.Inv) : (Bus.oamCopy page n b).Inv := by
  induction n generalizing b with
  | zero => exact h
  | succ n ih => exact ih ((h.read _).write _ _)

theorem Bus.oamDma_inv {b : Bus} (h : b.Inv) (page : Byte) : (b.oamDma page).Inv := by
  have := Bus.oamCopy_inv page 256 (Bus.idle_inv b.oamAlign h)
  exact this.latches _ _

theorem Bus.Inv.delivered {b : Bus} (h : b.Inv) (v : Byte) (d : DmaRequest) :
    { b with apu := { b.apu with sampleByte := v }, dma := d }.Inv := { h with }

theorem Bus.dmcDma_inv {b : Bus} (h : b.Inv) (a : Addr) : (b.dmcDma a).Inv := by
  exact ((Bus.idle_inv b.params.dmcIdle h).read a).delivered _ _

theorem State.serviceDma_inv {s : State} (h : s.bus.Inv) : s.serviceDma.bus.Inv := by
  have h1 : s.bus.serviceOam.Inv := by
    unfold Bus.serviceOam
    split
    · exact Bus.oamDma_inv h _
    · exact h
  show s.bus.serviceOam.serviceDmc.Inv
  unfold Bus.serviceDmc
  split
  · exact Bus.dmcDma_inv h1 _
  · exact h1

/-- No request is left once the DMA has been serviced. -/
theorem State.serviceDma_dma (s : State) : s.serviceDma.bus.dma = {} := by
  have h1 : s.bus.serviceOam.dma.oam = none := by
    unfold Bus.serviceOam
    split
    · rfl
    · assumption
  show s.bus.serviceOam.serviceDmc.dma = {}
  unfold Bus.serviceDmc
  split
  · next a _ =>
    have h2 : ∀ n (b : Bus), (Bus.idle n b).dma = b.dma := by
      intro n
      induction n with
      | zero => intro b; rfl
      | succ n ih => intro b; exact (ih b.tick).trans b.tick_dma
    have h3 : (s.bus.serviceOam.dmcDma a).dma.oam = none := by
      simp only [Bus.dmcDma, (Bus.read_keeps _ _).dma, h2, h1]
    have h4 : (s.bus.serviceOam.dmcDma a).dma.dmc = none := rfl
    cases hd : (s.bus.serviceOam.dmcDma a).dma with
    | mk o d => rw [hd] at h3 h4; cases h3; cases h4; rfl
  · next h =>
    cases hd : s.bus.serviceOam.dma with
    | mk o d => rw [hd] at h h1; cases h; cases h1; rfl

/-! ### Inputs -/

/-- What an event leaves alone: every register of the CPU (60_exceptions.md R446). -/
theorem State.applyEvent_cpu (s : State) (e : PlatformEvent) :
    (s.applyEvent e).a = s.a ∧ (s.applyEvent e).x = s.x ∧ (s.applyEvent e).y = s.y ∧ (s.applyEvent e).sp = s.sp ∧
    (s.applyEvent e).pc = s.pc ∧ (s.applyEvent e).flags = s.flags ∧ (s.applyEvent e).fatal = s.fatal ∧
    (s.applyEvent e).inputs = s.inputs ∧ (s.applyEvent e).bus.cycles = s.bus.cycles ∧
    (s.applyEvent e).bus.nmiPending = s.bus.nmiPending ∧ (s.applyEvent e).bus.openBus = s.bus.openBus ∧
    (s.applyEvent e).bus.dma.oam = s.bus.dma.oam := by
  cases e <;> simp [State.applyEvent]

theorem State.applyEvent_inv {s : State} (h : s.bus.Inv) (e : PlatformEvent) : (s.applyEvent e).bus.Inv := by
  cases e <;> exact { h with }

theorem State.foldl_applyEvent_inv (g : List PlatformEvent) {s : State} (h : s.bus.Inv) :
    (g.foldl State.applyEvent s).bus.Inv := by
  induction g generalizing s with
  | nil => exact h
  | cons e g ih => exact ih (State.applyEvent_inv h e)

theorem State.takeInputs_inv {s : State} (h : s.bus.Inv) : s.takeInputs.bus.Inv := by
  unfold State.takeInputs
  split
  · exact h
  · exact State.foldl_applyEvent_inv _ h

theorem State.foldl_applyEvent_fatal (g : List PlatformEvent) (s : State) : (g.foldl State.applyEvent s).fatal = s.fatal := by
  induction g generalizing s with
  | nil => rfl
  | cons e g ih => exact (ih _).trans (State.applyEvent_cpu s e).2.2.2.2.2.2.1

theorem State.takeInputs_fatal (s : State) : s.takeInputs.fatal = s.fatal := by
  unfold State.takeInputs
  split
  · rfl
  · exact State.foldl_applyEvent_fatal _ _

end Sys2Proof.Machine
end

