-- ==== Sys2Proof/Laws/Ops.lean ====
section
/-! SUPPORT. What the shared operations can do: the vector, taking an exception, the stack slots, the fetch. -/

namespace Sys2Proof.Machine

/-- With the NMI output disabled no cycle latches an edge (R426, R428). -/
theorem Bus.tick_nmi_disabled {b : Bus} (hc : b.ppu.ctrl.written.getLsbD 7 = false) : b.tick.nmiPending = b.nmiPending := by
  simp only [Bus.tick_nmiPending, Bus.tickPlatform_nmiLevel, Ppu.nmiLevel, Ppu.advance_ctrl_written, hc, Bool.and_false, Bool.false_and,
    Bool.or_false]

/-- A handler does not latch an NMI. -/
theorem Bus.accessRead_nmi (b : Bus) (a : Addr) : (b.accessRead a).2.nmiPending = b.nmiPending := (b.answer_frame a).2.2.2.1

/-- With the NMI output disabled no read latches an edge. -/
theorem Bus.read_nmi_disabled {b : Bus} (a : Addr) (hc : b.ppu.ctrl.written.getLsbD 7 = false) : (b.read a).2.nmiPending = b.nmiPending := by
  simp only [Bus.read]
  rw [Bus.tick_nmi_disabled (by rw [(b.accessRead_keeps a).ctrl.written]; exact hc), Bus.accessRead_nmi]

/-- An address of a vector is RAM or cartridge. -/
theorem Bus.region_vector (b : Bus) {a : Addr} (h : 0xFFFA ≤ a.toNat) : b.region a = .ram ∨ b.region a = .cart := by
  cases hp : b.params.platform with
  | flat => exact .inl (Bus.region_flat hp a)
  | nes => exact .inr (Bus.region_eq_cart.mpr ⟨hp, by omega⟩)

/-- If a vector's byte stays as it is, so does all storage: on the flat platform it is RAM, and on the map of R83 the mapper's. -/
theorem Bus.still_all {b : Bus} {v : Addr} (hv : 0x4020 ≤ v.toNat) (h : b.still v = true) (a : Addr) : b.still a = true := by
  rcases Bus.still_iff.mp h with hr | hq
  · cases hp : b.params.platform with
    | flat => exact Bus.still_of_ram (Bus.region_flat hp a)
    | nes =>
      have := (regionOf_nes v).1.mp (by simpa [Bus.region, hp] using hr)
      omega
  · exact Bus.still_iff.mpr (.inr hq)

/-- The word two reads of a vector give: what is stored there, or the last byte driven where nothing is (R86). -/
theorem Bus.read_vector {b : Bus} {v : Addr} (h1 : 0xFFFA ≤ v.toNat) (h2 : 0xFFFA ≤ (v + 1).toNat)
    (hs : b.still (v + 1) = true) :
    concat ((b.read v).2.read (v + 1)).1 (b.read v).1 =
      concat ((b.storage (v + 1)).getD ((b.storage v).getD b.openBus)) ((b.storage v).getD b.openBus) := by
  have e1 := Bus.read_getD (b.region_vector h1)
  have e2 := Bus.read_getD ((b.read v).2.region_vector h2)
  rw [e2.1, e1.2, e1.1, Bus.read_storage v hs]

/-- All that loading a vector does to the bus and to PC. -/
theorem State.loadVector_spec (s : State) (v : Addr) :
    s.bus.Keeps (s.loadVector v).bus ∧ (s.loadVector v).bus.cycles = s.bus.cycles + 2 ∧
    (s.bus.ppu.ctrl.written.getLsbD 7 = false → (s.loadVector v).bus.nmiPending = s.bus.nmiPending) := by
  refine ⟨(Bus.read_keeps _ _).trans (Bus.read_keeps _ _), by simp, fun hc => ?_⟩
  simp only [State.loadVector_bus]
  rw [Bus.read_nmi_disabled _ (by rw [(Bus.read_keeps _ _).ctrl.written]; exact hc), Bus.read_nmi_disabled _ hc]

/-- No request, no DMA. -/
theorem State.serviceDma_none {s : State} (h : s.bus.dma = {}) : s.serviceDma = s := by
  simp [State.serviceDma, Bus.serviceOam, Bus.serviceDmc, h]

/-- Two stack slots are one cell only if they are one slot. -/
theorem Bus.sameCell_stackAddr (b : Bus) {i j : Byte} (h : i ≠ j) : b.sameCell (stackAddr i) (stackAddr j) = false := by
  have : i.toNat ≠ j.toNat := fun e => h (BitVec.eq_of_toNat_eq e)
  have h' : stackAddr i ≠ stackAddr j := fun e => this (by
    have := congrArg BitVec.toNat e; rw [stackAddr_toNat, stackAddr_toNat] at this; omega)
  rw [Bus.sameCell_eq_false]
  refine ⟨h', fun ⟨_, _, e⟩ => ?_, fun ⟨e, _⟩ => by simp at e⟩
  rw [Bus.cell_stackAddr, Bus.cell_stackAddr] at e
  omega

/-- Three stack slots in a row are three slots, at every S. -/
theorem slots_ne (sp : Byte) : sp ≠ sp - 1 ∧ sp ≠ sp - 2 ∧ sp - 1 ≠ sp - 2 := by
  revert sp; decide +kernel

/-- The bus after the three pushes of an entry (R433, R360). -/
def pushedFrame (b : Bus) (sp : Byte) (pc : Addr) (p : Byte) : Bus :=
  ((b.write (stackAddr sp) (hi pc)).write (stackAddr (sp - 1)) (lo pc)).write (stackAddr (sp - 2)) p

theorem pushedFrame_storesOnly (b : Bus) (sp : Byte) (pc : Addr) (p : Byte) :
    b.StoresOnly [stackAddr sp, stackAddr (sp - 1), stackAddr (sp - 2)] (pushedFrame b sp pc p) :=
  (((Bus.write_storesOnly _ _ _).mono (by simp)).trans ((Bus.write_storesOnly _ _ _).mono (by simp))).trans
    ((Bus.write_storesOnly _ _ _).mono (by simp))

/-- The three bytes of the frame, where R435 puts them. -/
theorem pushedFrame_storage (b : Bus) (sp : Byte) (pc : Addr) (p : Byte) :
    (pushedFrame b sp pc p).storage (stackAddr sp) = some (hi pc) ∧
    (pushedFrame b sp pc p).storage (stackAddr (sp - 1)) = some (lo pc) ∧
    (pushedFrame b sp pc p).storage (stackAddr (sp - 2)) = some p := by
  obtain ⟨n1, n2, n3⟩ := slots_ne sp
  refine ⟨?_, ?_, ?_⟩
  · rw [pushedFrame, Bus.write_storage_other _ (Bus.sameCell_stackAddr _ n2) (.inl (by simp)),
      Bus.write_storage_other _ (Bus.sameCell_stackAddr _ n1) (.inl (by simp))]
    exact Bus.write_storage_same _ (Bus.writable_stackAddr _ _) (by simp)
  · rw [pushedFrame, Bus.write_storage_other _ (Bus.sameCell_stackAddr _ n3) (.inl (by simp))]
    exact Bus.write_storage_same _ (Bus.writable_stackAddr _ _) (by simp)
  · exact Bus.write_storage_same _ (Bus.writable_stackAddr _ _) (by simp)

/-- The bus an entry reads its vector from: the frame pushed, and the edge of an NMI taken. -/
def entryBus (k : Entry) (s : State) : Bus :=
  { pushedFrame s.bus s.sp s.pc (s.flags.pack k.breakBit) with
    nmiPending := (pushedFrame s.bus s.sp s.pc (s.flags.pack k.breakBit)).nmiPending && k != .nmi }

theorem entryBus_fields (k : Entry) (s : State) :
    (entryBus k s).params = s.bus.params ∧ (entryBus k s).openBus = s.flags.pack k.breakBit ∧
    (entryBus k s).cart.mapper = s.bus.cart.mapper ∧
    ∀ a, (entryBus k s).storage a = (pushedFrame s.bus s.sp s.pc (s.flags.pack k.breakBit)).storage a := by
  have hso := pushedFrame_storesOnly s.bus s.sp s.pc (s.flags.pack k.breakBit)
  refine ⟨?_, ?_, ?_, fun a => ?_⟩
  · simp only [entryBus, hso.params]
  · simp only [entryBus, pushedFrame, (Bus.write_frame _ _ _).2.2.2.1]
  · simp only [entryBus, hso.mapper]
  · simp only [entryBus, Bus.storage, Bus.region, Bus.cell]

/-- Taking an exception, whole (R433, R360). -/
theorem State.takeException_eq (k : Entry) (s : State) : s.takeException k =
    { s with
      bus := (((entryBus k s).read k.vector).2.read (k.vector + 1)).2
      sp := s.sp - 3
      flags := { s.flags with i := true }
      pc := concat (((entryBus k s).read k.vector).2.read (k.vector + 1)).1 ((entryBus k s).read k.vector).1 } := by
  have e1 : s.sp - 1 - 1 = s.sp - 2 := by simp only [BitVec.sub_eq_add_neg, BitVec.add_assoc]; rfl
  have e2 : s.sp - 2 - 1 = s.sp - 3 := by simp only [BitVec.sub_eq_add_neg, BitVec.add_assoc]; rfl
  have hb : ((pushedFrame s.bus s.sp s.pc (s.flags.pack k.breakBit)).nmiPending && k != .nmi) =
      if k = .nmi then false else (pushedFrame s.bus s.sp s.pc (s.flags.pack k.breakBit)).nmiPending := by
    cases k <;> simp
  simp only [State.takeException, State.push, e1, e2]
  unfold entryBus
  rw [hb]
  split <;> rfl

/-- What an entry leaves, but for PC (R433, R360). -/
theorem State.takeException_spec (k : Entry) (s : State) :
    let t := s.takeException k
    (t.bus.storage (stackAddr s.sp) = some (hi s.pc) ∧ t.bus.storage (stackAddr (s.sp - 1)) = some (lo s.pc) ∧
      t.bus.storage (stackAddr (s.sp - 2)) = some (s.flags.pack k.breakBit)) ∧
    ({ s.bus with nmiPending := s.bus.nmiPending && k != .nmi } : Bus).StoresOnly
      [stackAddr s.sp, stackAddr (s.sp - 1), stackAddr (s.sp - 2)] t.bus ∧
    (k = .nmi → s.bus.ppu.ctrl.written.getLsbD 7 = false → t.bus.nmiPending = false) ∧
    t.bus.cycles = s.bus.cycles + 5 := by
  have hk : (entryBus k s).Keeps (s.takeException k).bus := by
    rw [State.takeException_eq]; exact (Bus.read_keeps _ _).trans (Bus.read_keeps _ _)
  have hso := pushedFrame_storesOnly s.bus s.sp s.pc (s.flags.pack k.breakBit)
  have hst : ∀ j, (s.takeException k).bus.storage (stackAddr j) =
      (pushedFrame s.bus s.sp s.pc (s.flags.pack k.breakBit)).storage (stackAddr j) := fun j =>
    hk.storage (Bus.still_of_ram (by simp))
  obtain ⟨p1, p2, p3⟩ := pushedFrame_storage s.bus s.sp s.pc (s.flags.pack k.breakBit)
  refine ⟨⟨(hst _).trans p1, (hst _).trans p2, (hst _).trans p3⟩, ?_, fun hn hc => ?_, ?_⟩
  · have hn : (s.bus.nmiPending && k != .nmi) = true → (entryBus k s).nmiPending = true := by
      intro h
      simp only [Bool.and_eq_true] at h
      simp only [entryBus, h.2, hso.nmiPending h.1, Bool.and_self]
    exact Bus.StoresOnly.trans (c := entryBus k s) { hso with nmiPending := hn } (hk.storesOnly _)
  · have hctrl : (entryBus k s).ppu.ctrl.written = s.bus.ppu.ctrl.written := (hso.devices (by simp)).2.1.written
    rw [State.takeException_eq]
    show (((entryBus k s).read k.vector).2.read (k.vector + 1)).2.nmiPending = false
    rw [Bus.read_nmi_disabled _ (by rw [(Bus.read_keeps _ _).ctrl.written, hctrl]; exact hc),
      Bus.read_nmi_disabled _ (by rw [hctrl]; exact hc)]
    simp [entryBus, hn]
  · rw [State.takeException_eq]
    simp [entryBus, pushedFrame]

/-- The handler's address: what is stored at the vector, or the last byte driven where nothing is (R86, R433). -/
theorem State.takeException_pc (k : Entry) {s : State} (hs : ∀ a : Addr, 0xFFFA ≤ a.toNat → s.bus.still a = true) :
    (s.takeException k).pc =
      concat ((s.bus.storage (k.vector + 1)).getD ((s.bus.storage k.vector).getD (s.flags.pack k.breakBit)))
        ((s.bus.storage k.vector).getD (s.flags.pack k.breakBit)) := by
  have hv : 0xFFFA ≤ k.vector.toNat ∧ 0xFFFA ≤ (k.vector + 1).toNat := by cases k <;> decide
  have hso := pushedFrame_storesOnly s.bus s.sp s.pc (s.flags.pack k.breakBit)
  have hst : ∀ a : Addr, 0xFFFA ≤ a.toNat → (entryBus k s).storage a = s.bus.storage a := by
    intro a ha
    rw [(entryBus_fields k s).2.2.2]
    refine hso.storage a (fun e he => ?_) ?_
    · have hr : s.bus.region e = .ram ∧ e.toNat < 0x200 := by
        simp only [List.mem_cons, List.not_mem_nil, or_false] at he
        rcases he with rfl | rfl | rfl <;> refine ⟨by simp, ?_⟩ <;> rw [stackAddr_toNat] <;>
          [have := s.sp.isLt; have := (s.sp - 1).isLt; have := (s.sp - 2).isLt] <;> omega
      rw [Bus.sameCell_eq_false]
      refine ⟨fun h => by rw [h] at ha; omega, fun ⟨h, _, hc⟩ => ?_, fun ⟨_, h, _⟩ => absurd (hr.1.symm.trans h) (by simp)⟩
      cases hp : s.bus.params.platform with
      | flat => simp only [Bus.cell, ramCell, hp] at hc; omega
      | nes =>
        have := (regionOf_nes a).1.mp (by simpa [Bus.region, hp] using h)
        omega
    · exact (Bus.still_iff.mp (hs a ha)).imp_right (fun q => Bus.banksStay_of_ram q (by simp))
  have hq : (entryBus k s).still (k.vector + 1) = true := by
    rw [← hs _ hv.2]
    have : (entryBus k s).cart.quiet = s.bus.cart.quiet := Cartridge.quiet_congr (entryBus_fields k s).2.2.1
    simp only [Bus.still, this, Bus.region_congr (entryBus_fields k s).1]
  have ho := (entryBus_fields k s).2.1
  simp only [State.takeException_eq]
  rw [Bus.read_vector hv.1 hv.2 hq, hst _ hv.1, hst _ hv.2, ho]

/-- A stack slot as a number (R34). -/
theorem ofNat_stackAddr (sp : Byte) : BitVec.ofNat 16 (0x0100 + sp.toNat) = stackAddr sp := by
  apply BitVec.eq_of_toNat_eq; rw [stackAddr_toNat]; have := sp.isLt; simp; omega

/-- A branch target as a number (R192). -/
theorem ofInt_sext8 (pc : Addr) (d : Byte) : BitVec.ofInt 16 (pc.toNat + d.toInt) = pc + sext8 d := by
  apply BitVec.eq_of_toInt_eq
  simp only [sext8, BitVec.toInt_ofInt, BitVec.toInt_add, BitVec.toInt_signExtend_of_le (show 8 ≤ 16 by decide)]
  rw [BitVec.toInt_eq_toNat_bmod (x := pc)]
  simp [Int.bmod_add_bmod]

/-- `Modify` in the terms of Safety.lean. -/
theorem modifyOperand_eq (e : EaMode) (f : Byte → AluResult) (s : State) :
    modifyOperand e f s = (f (rmwByte e s), rmwBus e (f (rmwByte e s)).value s) := rfl

/-- An RMW access writes at its address only. -/
theorem rmwBus_storesOnly (e : EaMode) (r : Byte) (s : State) : s.bus.StoresOnly [(resolve .rmw e s).1] (rmwBus e r s) :=
  modifyOperand_storesOnly e (fun _ => ⟨r, s.flags⟩) s

/-- Bytes that stand in storage are what reads of them return. -/
theorem Bus.readsAs_of_storage (l : List Byte) {b : Bus} {a : Addr}
    (h : ∀ k, k < l.length → b.storage (a + BitVec.ofNat 16 k) = l[k]? ∧ b.still (a + BitVec.ofNat 16 k) = true) :
    b.readsAs a l := by
  induction l generalizing b a with
  | nil => exact trivial
  | cons v l ih =>
    refine ⟨Bus.read_value (by simpa using (h 0 (by simp)).1), ih (fun k hk => ?_)⟩
    have e : a + 1 + BitVec.ofNat 16 k = a + BitVec.ofNat 16 (k + 1) := by
      rw [BitVec.add_assoc]; congr 1; apply BitVec.eq_of_toNat_eq; simp; omega
    have := h (k + 1) (by simpa using hk)
    rw [e, Bus.read_storage _ this.2, (b.read_keeps a).still]
    simpa using this

/-- The fetch of an instruction whose bytes the bus returns. -/
theorem State.fetchInstr_of_reads (u : State) (i : Instr) (h : u.bus.readsAs u.pc (encode i)) :
    ∃ b : Bus, u.bus.Keeps b ∧ b.cycles = u.bus.cycles + fetchCycles i ∧
      u.fetchInstr = (i, { u with bus := b, pc := u.pc + BitVec.ofNat 16 (fetchCycles i) }) := by
  have hl := instrOf_length i 0 0
  have h2 : i.length = 1 + i.shape.bytes.length := rfl
  have h0 := instrOf_shape_bytes i
  have e0 : u.fetchByte.1 = i.opcode := h.1
  have h1 := h.2
  have k1 : u.bus.Keeps u.fetchByte.2.bus := Bus.read_keeps _ _
  have k2 : u.bus.Keeps u.fetchByte.2.fetchByte.2.bus := k1.trans (Bus.read_keeps _ _)
  have k3 : u.bus.Keeps u.fetchByte.2.fetchByte.2.fetchByte.2.bus := k2.trans (Bus.read_keeps _ _)
  simp only [State.fetchInstr, e0]
  rcases Instr.length_cases i with hi | hi | hi
  · have hb := List.length_eq_zero_iff.mp (show i.shape.bytes.length = 0 by omega)
    have hJ : fetchesTargetLate i.opcode = false := by
      cases i <;> first | rfl | (simp [Instr.length, Instr.shape, Shape.bytes] at hi)
    have hf : fetchCycles i = 1 := by simp [fetchCycles, hJ, hi]
    have := h0 0 0
    rw [hb] at this
    refine ⟨_, k1, by simp [hf], ?_⟩
    rw [if_pos (by omega), hf]
    exact Prod.ext this rfl
  · obtain ⟨c, hb⟩ := List.length_eq_one_iff.mp (show i.shape.bytes.length = 1 by omega)
    have hJ : fetchesTargetLate i.opcode = false := by
      cases i <;> first | rfl | (simp [Instr.length, Instr.shape, Shape.bytes] at hi)
    have hf : fetchCycles i = 2 := by simp [fetchCycles, hJ, hi]
    have := h0 0 0
    rw [hb] at this
    rw [hb] at h1
    have e1 : u.fetchByte.2.fetchByte.1 = c := h1.1
    refine ⟨_, k2, by simp [hf], ?_⟩
    rw [if_neg (by omega), if_pos (by omega), hf, e1]
    refine Prod.ext this ?_
    simp only [State.fetchByte, BitVec.add_assoc]; rfl
  · obtain ⟨c, d, hb⟩ := List.length_eq_two.mp (show i.shape.bytes.length = 2 by omega)
    have := h0 0 0
    rw [hb] at this
    rw [hb] at h1
    have e1 : u.fetchByte.2.fetchByte.1 = c := h1.1
    have e2 : u.fetchByte.2.fetchByte.2.fetchByte.1 = d := h1.2.1
    by_cases hJ : fetchesTargetLate i.opcode = true
    · have hf : fetchCycles i = 2 := by simp [fetchCycles, hJ]
      refine ⟨_, k2, by simp [hf], ?_⟩
      rw [if_neg (by omega), if_neg (by omega), if_pos hJ, hf, e1, e2]
      refine Prod.ext this ?_
      simp only [State.fetchByte, BitVec.add_assoc]; rfl
    · have hf : fetchCycles i = 3 := by simp [fetchCycles, hJ, hi]
      refine ⟨_, k3, by simp [hf], ?_⟩
      rw [if_neg (by omega), if_neg (by omega), if_neg hJ, hf, e1, e2]
      refine Prod.ext this ?_
      simp only [State.fetchByte, BitVec.add_assoc]; rfl

/-- How many cycles a fetch takes. -/
theorem State.fetchInstr_cycles (u : State) : u.fetchInstr.2.bus.cycles = u.bus.cycles + fetchCycles u.fetchInstr.1 ∧ u.fetchInstr.2.fatal = u.fatal := by
  have hop : ∀ x y : Byte, (instrOf u.fetchByte.1 x y).opcode = u.fetchByte.1 := instrOf_opcode _
  have hlen : ∀ x y : Byte, (instrOf u.fetchByte.1 x y).length = (instrOf u.fetchByte.1 0 0).length := by
    intro x y
    have := instrOf_length (instrOf u.fetchByte.1 0 0) x y
    rwa [instrOf_opcode] at this
  have hj : (instrOf u.fetchByte.1 0 0).length ≤ 2 → fetchesTargetLate u.fetchByte.1 = false := by
    intro h
    by_contra hc
    have : u.fetchByte.1 = 0x20 := by simpa [fetchesTargetLate] using hc
    rw [this] at h
    exact absurd h (by decide)
  have h3 := Instr.length_cases (instrOf u.fetchByte.1 0 0)
  simp only [State.fetchInstr]
  split
  · next h => exact ⟨by simp only [fetchCycles, hop, hj (by omega)]; simp only [State.fetchByte_bus, Bus.read_cycles, Bool.false_eq_true, if_false]; omega, rfl⟩
  · split
    · next h => exact ⟨by simp only [fetchCycles, hop, hlen, hj (by omega)]; simp only [State.fetchByte_bus, Bus.read_cycles, Bool.false_eq_true, if_false]; omega, rfl⟩
    · split
      · next h => exact ⟨by simp only [fetchCycles, hop, hlen, h]; simp, rfl⟩
      · next h => exact ⟨by simp only [fetchCycles, hop, hlen, h]; simp only [State.fetchByte_bus, Bus.read_cycles, Bool.false_eq_true, if_false]; omega, rfl⟩

/-- The row of a refused opcode. -/
theorem instrOf_refused {op : Byte} (h : op ∈ refusedOpcodes) : (instrOf op 0 0).length = 1 ∧ (instrOf op 0 0).shape = .refused op := by
  revert op; unfold refusedOpcodes; simp; decide

/-- No instruction drops a latched NMI (R428). -/
theorem shape_run_nmi (sh : Shape) (s : State) : s.bus.nmiPending = true → (sh.run s).bus.nmiPending = true := by
  intro h
  have R := fun (b : Bus) a (hb : b.nmiPending = true) => (b.read_keeps a).nmiPending hb
  have W := fun (b : Bus) a v (hb : b.nmiPending = true) => (b.write_storesOnly a v).nmiPending hb
  cases sh with
  | read op o => cases op <;> exact (readOperand_keeps o s).nmiPending h
  | write op e => cases op <;> exact (storeOperand_storesOnly e _ s).nmiPending h
  | rmw op e =>
    cases op <;> simp only [Shape.run, RmwOp.run, opAsl, opLsr, opRol, opRor, opInc, opDec, opSlo, opRla, opSre, opRra, opDcp,
      opIsb] <;> exact (modifyOperand_storesOnly e _ s).nmiPending h
  | acc op => cases op <;> exact R _ _ h
  | implied op => cases op <;> exact R _ _ h
  | branch op d =>
    simp only [Shape.run, branch]
    split
    · split
      · exact R _ _ h
      · exact R _ _ (R _ _ h)
    · exact h
  | jmpAbs a => exact h
  | jmpInd a => exact R _ _ (R _ _ h)
  | jsr a => simp only [Shape.run, opJsr_bus]; exact R _ _ (W _ _ _ (W _ _ _ (R _ _ h)))
  | rts =>
    obtain ⟨c, hc⟩ := opRts_bus s
    simp only [Shape.run, hc]
    exact R _ _ (R _ _ (R _ _ (R _ _ (R _ _ h))))
  | pha => exact W _ _ _ (R _ _ h)
  | php => exact W _ _ _ (R _ _ h)
  | pla => simp only [Shape.run, opPla_bus]; exact R _ _ (R _ _ (R _ _ h))
  | plp => simp only [Shape.run, opPlp_bus]; exact R _ _ (R _ _ (R _ _ h))
  | brk sig => simp only [Shape.run, State.takeException]; exact R _ _ (R _ _ (W _ _ _ (W _ _ _ (W _ _ _ h))))
  | rti =>
    simp only [Shape.run, State.returnFromException_bus, State.dummyFetch_bus]
    exact R _ _ (R _ _ (R _ _ (R _ _ (R _ _ h))))
  | refused op => exact h

/-- No shape but a storing one writes. -/
theorem shape_run_keeps (sh : Shape) (s : State) (h1 : ∀ op e, sh ≠ .write op e) (h2 : ∀ op e, sh ≠ .rmw op e) (h3 : ∀ a, sh ≠ .jsr a)
   (h4 : sh ≠ .pha) (h5 : sh ≠ .php) (h6 : ∀ g, sh ≠ .brk g) : s.bus.Keeps (sh.run s).bus := by
  have R := Bus.read_keeps
  cases sh with
  | read op o => cases op <;> exact readOperand_keeps o s
  | write op e => exact absurd rfl (h1 op e)
  | rmw op e => exact absurd rfl (h2 op e)
  | acc op => cases op <;> exact R _ _
  | implied op => cases op <;> exact R _ _
  | branch op d =>
    simp only [Shape.run, branch]
    split
    · split
      · exact R _ _
      · exact (R _ _).trans (R _ _)
    · exact Bus.Keeps.refl _
  | jmpAbs a => exact Bus.Keeps.refl _
  | jmpInd a => exact (R _ _).trans (R _ _)
  | jsr a => exact absurd rfl (h3 a)
  | rts =>
    obtain ⟨c, hc⟩ := opRts_bus s
    simp only [Shape.run, hc]
    exact ((((R _ _).trans (R _ _)).trans (R _ _)).trans (R _ _)).trans (R _ _)
  | pha => exact absurd rfl h4
  | php => exact absurd rfl h5
  | pla => simp only [Shape.run, opPla_bus]; exact ((R _ _).trans (R _ _)).trans (R _ _)
  | plp => simp only [Shape.run, opPlp_bus]; exact ((R _ _).trans (R _ _)).trans (R _ _)
  | brk sig => exact absurd rfl (h6 sig)
  | rti =>
    simp only [Shape.run, State.returnFromException_bus, State.dummyFetch_bus]
    exact ((((R _ _).trans (R _ _)).trans (R _ _)).trans (R _ _)).trans (R _ _)
  | refused op => exact Bus.Keeps.refl _

end Sys2Proof.Machine
end

