-- ==== Sys2Proof/Laws/PerInstr.lean ====
section
/-! SUPPORT. For every row of the opcode map: the row its opcode selects, given its operand bytes, is the row itself
(30_encoding.md R141, R143, R144). -/

namespace Sys2Proof.Laws.Encoding

/-- The opcode map holds this instruction at its opcode, with its operand. -/
def Statement (i : Instr) : Prop :=
  instrOf i.opcode (i.shape.bytes.getD 0 0) (i.shape.bytes.getD 1 0) = i ∧ i.length = 1 + i.shape.bytes.length

theorem holds (i : Instr) : Statement i := ⟨instrOf_shape_bytes i 0 0, rfl⟩

theorem brk (sig : Byte) : Statement (.brk sig) := holds _
theorem oraIndX (z : Byte) : Statement (.oraIndX z) := holds _
theorem jam02 : Statement .jam02 := holds _
theorem sloIndX (z : Byte) : Statement (.sloIndX z) := holds _
theorem nop04Zp (z : Byte) : Statement (.nop04Zp z) := holds _
theorem oraZp (z : Byte) : Statement (.oraZp z) := holds _
theorem aslZp (z : Byte) : Statement (.aslZp z) := holds _
theorem sloZp (z : Byte) : Statement (.sloZp z) := holds _
theorem php : Statement .php := holds _
theorem oraImm (m : Byte) : Statement (.oraImm m) := holds _
theorem aslAcc : Statement .aslAcc := holds _
theorem anc0B : Statement .anc0B := holds _
theorem nop0CAbs (a : Addr) : Statement (.nop0CAbs a) := holds _
theorem oraAbs (a : Addr) : Statement (.oraAbs a) := holds _
theorem aslAbs (a : Addr) : Statement (.aslAbs a) := holds _
theorem sloAbs (a : Addr) : Statement (.sloAbs a) := holds _
theorem bpl (d : Byte) : Statement (.bpl d) := holds _
theorem oraIndY (z : Byte) : Statement (.oraIndY z) := holds _
theorem jam12 : Statement .jam12 := holds _
theorem sloIndY (z : Byte) : Statement (.sloIndY z) := holds _
theorem nop14ZpX (z : Byte) : Statement (.nop14ZpX z) := holds _
theorem oraZpX (z : Byte) : Statement (.oraZpX z) := holds _
theorem aslZpX (z : Byte) : Statement (.aslZpX z) := holds _
theorem sloZpX (z : Byte) : Statement (.sloZpX z) := holds _
theorem clc : Statement .clc := holds _
theorem oraAbsY (a : Addr) : Statement (.oraAbsY a) := holds _
theorem nop1A : Statement .nop1A := holds _
theorem sloAbsY (a : Addr) : Statement (.sloAbsY a) := holds _
theorem nop1CAbsX (a : Addr) : Statement (.nop1CAbsX a) := holds _
theorem oraAbsX (a : Addr) : Statement (.oraAbsX a) := holds _
theorem aslAbsX (a : Addr) : Statement (.aslAbsX a) := holds _
theorem sloAbsX (a : Addr) : Statement (.sloAbsX a) := holds _
theorem jsr (a : Addr) : Statement (.jsr a) := holds _
theorem andIndX (z : Byte) : Statement (.andIndX z) := holds _
theorem jam22 : Statement .jam22 := holds _
theorem rlaIndX (z : Byte) : Statement (.rlaIndX z) := holds _
theorem bitZp (z : Byte) : Statement (.bitZp z) := holds _
theorem andZp (z : Byte) : Statement (.andZp z) := holds _
theorem rolZp (z : Byte) : Statement (.rolZp z) := holds _
theorem rlaZp (z : Byte) : Statement (.rlaZp z) := holds _
theorem plp : Statement .plp := holds _
theorem andImm (m : Byte) : Statement (.andImm m) := holds _
theorem rolAcc : Statement .rolAcc := holds _
theorem anc2B : Statement .anc2B := holds _
theorem bitAbs (a : Addr) : Statement (.bitAbs a) := holds _
theorem andAbs (a : Addr) : Statement (.andAbs a) := holds _
theorem rolAbs (a : Addr) : Statement (.rolAbs a) := holds _
theorem rlaAbs (a : Addr) : Statement (.rlaAbs a) := holds _
theorem bmi (d : Byte) : Statement (.bmi d) := holds _
theorem andIndY (z : Byte) : Statement (.andIndY z) := holds _
theorem jam32 : Statement .jam32 := holds _
theorem rlaIndY (z : Byte) : Statement (.rlaIndY z) := holds _
theorem nop34ZpX (z : Byte) : Statement (.nop34ZpX z) := holds _
theorem andZpX (z : Byte) : Statement (.andZpX z) := holds _
theorem rolZpX (z : Byte) : Statement (.rolZpX z) := holds _
theorem rlaZpX (z : Byte) : Statement (.rlaZpX z) := holds _
theorem sec : Statement .sec := holds _
theorem andAbsY (a : Addr) : Statement (.andAbsY a) := holds _
theorem nop3A : Statement .nop3A := holds _
theorem rlaAbsY (a : Addr) : Statement (.rlaAbsY a) := holds _
theorem nop3CAbsX (a : Addr) : Statement (.nop3CAbsX a) := holds _
theorem andAbsX (a : Addr) : Statement (.andAbsX a) := holds _
theorem rolAbsX (a : Addr) : Statement (.rolAbsX a) := holds _
theorem rlaAbsX (a : Addr) : Statement (.rlaAbsX a) := holds _
theorem rti : Statement .rti := holds _
theorem eorIndX (z : Byte) : Statement (.eorIndX z) := holds _
theorem jam42 : Statement .jam42 := holds _
theorem sreIndX (z : Byte) : Statement (.sreIndX z) := holds _
theorem nop44Zp (z : Byte) : Statement (.nop44Zp z) := holds _
theorem eorZp (z : Byte) : Statement (.eorZp z) := holds _
theorem lsrZp (z : Byte) : Statement (.lsrZp z) := holds _
theorem sreZp (z : Byte) : Statement (.sreZp z) := holds _
theorem pha : Statement .pha := holds _
theorem eorImm (m : Byte) : Statement (.eorImm m) := holds _
theorem lsrAcc : Statement .lsrAcc := holds _
theorem alr : Statement .alr := holds _
theorem jmpAbs (a : Addr) : Statement (.jmpAbs a) := holds _
theorem eorAbs (a : Addr) : Statement (.eorAbs a) := holds _
theorem lsrAbs (a : Addr) : Statement (.lsrAbs a) := holds _
theorem sreAbs (a : Addr) : Statement (.sreAbs a) := holds _
theorem bvc (d : Byte) : Statement (.bvc d) := holds _
theorem eorIndY (z : Byte) : Statement (.eorIndY z) := holds _
theorem jam52 : Statement .jam52 := holds _
theorem sreIndY (z : Byte) : Statement (.sreIndY z) := holds _
theorem nop54ZpX (z : Byte) : Statement (.nop54ZpX z) := holds _
theorem eorZpX (z : Byte) : Statement (.eorZpX z) := holds _
theorem lsrZpX (z : Byte) : Statement (.lsrZpX z) := holds _
theorem sreZpX (z : Byte) : Statement (.sreZpX z) := holds _
theorem cli : Statement .cli := holds _
theorem eorAbsY (a : Addr) : Statement (.eorAbsY a) := holds _
theorem nop5A : Statement .nop5A := holds _
theorem sreAbsY (a : Addr) : Statement (.sreAbsY a) := holds _
theorem nop5CAbsX (a : Addr) : Statement (.nop5CAbsX a) := holds _
theorem eorAbsX (a : Addr) : Statement (.eorAbsX a) := holds _
theorem lsrAbsX (a : Addr) : Statement (.lsrAbsX a) := holds _
theorem sreAbsX (a : Addr) : Statement (.sreAbsX a) := holds _
theorem rts : Statement .rts := holds _
theorem adcIndX (z : Byte) : Statement (.adcIndX z) := holds _
theorem jam62 : Statement .jam62 := holds _
theorem rraIndX (z : Byte) : Statement (.rraIndX z) := holds _
theorem nop64Zp (z : Byte) : Statement (.nop64Zp z) := holds _
theorem adcZp (z : Byte) : Statement (.adcZp z) := holds _
theorem rorZp (z : Byte) : Statement (.rorZp z) := holds _
theorem rraZp (z : Byte) : Statement (.rraZp z) := holds _
theorem pla : Statement .pla := holds _
theorem adcImm (m : Byte) : Statement (.adcImm m) := holds _
theorem rorAcc : Statement .rorAcc := holds _
theorem arr : Statement .arr := holds _
theorem jmpInd (a : Addr) : Statement (.jmpInd a) := holds _
theorem adcAbs (a : Addr) : Statement (.adcAbs a) := holds _
theorem rorAbs (a : Addr) : Statement (.rorAbs a) := holds _
theorem rraAbs (a : Addr) : Statement (.rraAbs a) := holds _
theorem bvs (d : Byte) : Statement (.bvs d) := holds _
theorem adcIndY (z : Byte) : Statement (.adcIndY z) := holds _
theorem jam72 : Statement .jam72 := holds _
theorem rraIndY (z : Byte) : Statement (.rraIndY z) := holds _
theorem nop74ZpX (z : Byte) : Statement (.nop74ZpX z) := holds _
theorem adcZpX (z : Byte) : Statement (.adcZpX z) := holds _
theorem rorZpX (z : Byte) : Statement (.rorZpX z) := holds _
theorem rraZpX (z : Byte) : Statement (.rraZpX z) := holds _
theorem sei : Statement .sei := holds _
theorem adcAbsY (a : Addr) : Statement (.adcAbsY a) := holds _
theorem nop7A : Statement .nop7A := holds _
theorem rraAbsY (a : Addr) : Statement (.rraAbsY a) := holds _
theorem nop7CAbsX (a : Addr) : Statement (.nop7CAbsX a) := holds _
theorem adcAbsX (a : Addr) : Statement (.adcAbsX a) := holds _
theorem rorAbsX (a : Addr) : Statement (.rorAbsX a) := holds _
theorem rraAbsX (a : Addr) : Statement (.rraAbsX a) := holds _
theorem nop80Imm (m : Byte) : Statement (.nop80Imm m) := holds _
theorem staIndX (z : Byte) : Statement (.staIndX z) := holds _
theorem nop82Imm (m : Byte) : Statement (.nop82Imm m) := holds _
theorem saxIndX (z : Byte) : Statement (.saxIndX z) := holds _
theorem styZp (z : Byte) : Statement (.styZp z) := holds _
theorem staZp (z : Byte) : Statement (.staZp z) := holds _
theorem stxZp (z : Byte) : Statement (.stxZp z) := holds _
theorem saxZp (z : Byte) : Statement (.saxZp z) := holds _
theorem dey : Statement .dey := holds _
theorem nop89Imm (m : Byte) : Statement (.nop89Imm m) := holds _
theorem txa : Statement .txa := holds _
theorem xaa : Statement .xaa := holds _
theorem styAbs (a : Addr) : Statement (.styAbs a) := holds _
theorem staAbs (a : Addr) : Statement (.staAbs a) := holds _
theorem stxAbs (a : Addr) : Statement (.stxAbs a) := holds _
theorem saxAbs (a : Addr) : Statement (.saxAbs a) := holds _
theorem bcc (d : Byte) : Statement (.bcc d) := holds _
theorem staIndY (z : Byte) : Statement (.staIndY z) := holds _
theorem jam92 : Statement .jam92 := holds _
theorem sha93 : Statement .sha93 := holds _
theorem styZpX (z : Byte) : Statement (.styZpX z) := holds _
theorem staZpX (z : Byte) : Statement (.staZpX z) := holds _
theorem stxZpY (z : Byte) : Statement (.stxZpY z) := holds _
theorem saxZpY (z : Byte) : Statement (.saxZpY z) := holds _
theorem tya : Statement .tya := holds _
theorem staAbsY (a : Addr) : Statement (.staAbsY a) := holds _
theorem txs : Statement .txs := holds _
theorem tas : Statement .tas := holds _
theorem shy : Statement .shy := holds _
theorem staAbsX (a : Addr) : Statement (.staAbsX a) := holds _
theorem shx : Statement .shx := holds _
theorem sha9F : Statement .sha9F := holds _
theorem ldyImm (m : Byte) : Statement (.ldyImm m) := holds _
theorem ldaIndX (z : Byte) : Statement (.ldaIndX z) := holds _
theorem ldxImm (m : Byte) : Statement (.ldxImm m) := holds _
theorem laxIndX (z : Byte) : Statement (.laxIndX z) := holds _
theorem ldyZp (z : Byte) : Statement (.ldyZp z) := holds _
theorem ldaZp (z : Byte) : Statement (.ldaZp z) := holds _
theorem ldxZp (z : Byte) : Statement (.ldxZp z) := holds _
theorem laxZp (z : Byte) : Statement (.laxZp z) := holds _
theorem tay : Statement .tay := holds _
theorem ldaImm (m : Byte) : Statement (.ldaImm m) := holds _
theorem tax : Statement .tax := holds _
theorem lxa : Statement .lxa := holds _
theorem ldyAbs (a : Addr) : Statement (.ldyAbs a) := holds _
theorem ldaAbs (a : Addr) : Statement (.ldaAbs a) := holds _
theorem ldxAbs (a : Addr) : Statement (.ldxAbs a) := holds _
theorem laxAbs (a : Addr) : Statement (.laxAbs a) := holds _
theorem bcs (d : Byte) : Statement (.bcs d) := holds _
theorem ldaIndY (z : Byte) : Statement (.ldaIndY z) := holds _
theorem jamB2 : Statement .jamB2 := holds _
theorem laxIndY (z : Byte) : Statement (.laxIndY z) := holds _
theorem ldyZpX (z : Byte) : Statement (.ldyZpX z) := holds _
theorem ldaZpX (z : Byte) : Statement (.ldaZpX z) := holds _
theorem ldxZpY (z : Byte) : Statement (.ldxZpY z) := holds _
theorem laxZpY (z : Byte) : Statement (.laxZpY z) := holds _
theorem clv : Statement .clv := holds _
theorem ldaAbsY (a : Addr) : Statement (.ldaAbsY a) := holds _
theorem tsx : Statement .tsx := holds _
theorem las : Statement .las := holds _
theorem ldyAbsX (a : Addr) : Statement (.ldyAbsX a) := holds _
theorem ldaAbsX (a : Addr) : Statement (.ldaAbsX a) := holds _
theorem ldxAbsY (a : Addr) : Statement (.ldxAbsY a) := holds _
theorem laxAbsY (a : Addr) : Statement (.laxAbsY a) := holds _
theorem cpyImm (m : Byte) : Statement (.cpyImm m) := holds _
theorem cmpIndX (z : Byte) : Statement (.cmpIndX z) := holds _
theorem nopC2Imm (m : Byte) : Statement (.nopC2Imm m) := holds _
theorem dcpIndX (z : Byte) : Statement (.dcpIndX z) := holds _
theorem cpyZp (z : Byte) : Statement (.cpyZp z) := holds _
theorem cmpZp (z : Byte) : Statement (.cmpZp z) := holds _
theorem decZp (z : Byte) : Statement (.decZp z) := holds _
theorem dcpZp (z : Byte) : Statement (.dcpZp z) := holds _
theorem iny : Statement .iny := holds _
theorem cmpImm (m : Byte) : Statement (.cmpImm m) := holds _
theorem dex : Statement .dex := holds _
theorem sbx : Statement .sbx := holds _
theorem cpyAbs (a : Addr) : Statement (.cpyAbs a) := holds _
theorem cmpAbs (a : Addr) : Statement (.cmpAbs a) := holds _
theorem decAbs (a : Addr) : Statement (.decAbs a) := holds _
theorem dcpAbs (a : Addr) : Statement (.dcpAbs a) := holds _
theorem bne (d : Byte) : Statement (.bne d) := holds _
theorem cmpIndY (z : Byte) : Statement (.cmpIndY z) := holds _
theorem jamD2 : Statement .jamD2 := holds _
theorem dcpIndY (z : Byte) : Statement (.dcpIndY z) := holds _
theorem nopD4ZpX (z : Byte) : Statement (.nopD4ZpX z) := holds _
theorem cmpZpX (z : Byte) : Statement (.cmpZpX z) := holds _
theorem decZpX (z : Byte) : Statement (.decZpX z) := holds _
theorem dcpZpX (z : Byte) : Statement (.dcpZpX z) := holds _
theorem cld : Statement .cld := holds _
theorem cmpAbsY (a : Addr) : Statement (.cmpAbsY a) := holds _
theorem nopDA : Statement .nopDA := holds _
theorem dcpAbsY (a : Addr) : Statement (.dcpAbsY a) := holds _
theorem nopDCAbsX (a : Addr) : Statement (.nopDCAbsX a) := holds _
theorem cmpAbsX (a : Addr) : Statement (.cmpAbsX a) := holds _
theorem decAbsX (a : Addr) : Statement (.decAbsX a) := holds _
theorem dcpAbsX (a : Addr) : Statement (.dcpAbsX a) := holds _
theorem cpxImm (m : Byte) : Statement (.cpxImm m) := holds _
theorem sbcIndX (z : Byte) : Statement (.sbcIndX z) := holds _
theorem nopE2Imm (m : Byte) : Statement (.nopE2Imm m) := holds _
theorem isbIndX (z : Byte) : Statement (.isbIndX z) := holds _
theorem cpxZp (z : Byte) : Statement (.cpxZp z) := holds _
theorem sbcZp (z : Byte) : Statement (.sbcZp z) := holds _
theorem incZp (z : Byte) : Statement (.incZp z) := holds _
theorem isbZp (z : Byte) : Statement (.isbZp z) := holds _
theorem inx : Statement .inx := holds _
theorem sbcImm (m : Byte) : Statement (.sbcImm m) := holds _
theorem nop : Statement .nop := holds _
theorem sbcEBImm (m : Byte) : Statement (.sbcEBImm m) := holds _
theorem cpxAbs (a : Addr) : Statement (.cpxAbs a) := holds _
theorem sbcAbs (a : Addr) : Statement (.sbcAbs a) := holds _
theorem incAbs (a : Addr) : Statement (.incAbs a) := holds _
theorem isbAbs (a : Addr) : Statement (.isbAbs a) := holds _
theorem beq (d : Byte) : Statement (.beq d) := holds _
theorem sbcIndY (z : Byte) : Statement (.sbcIndY z) := holds _
theorem jamF2 : Statement .jamF2 := holds _
theorem isbIndY (z : Byte) : Statement (.isbIndY z) := holds _
theorem nopF4ZpX (z : Byte) : Statement (.nopF4ZpX z) := holds _
theorem sbcZpX (z : Byte) : Statement (.sbcZpX z) := holds _
theorem incZpX (z : Byte) : Statement (.incZpX z) := holds _
theorem isbZpX (z : Byte) : Statement (.isbZpX z) := holds _
theorem sed : Statement .sed := holds _
theorem sbcAbsY (a : Addr) : Statement (.sbcAbsY a) := holds _
theorem nopFA : Statement .nopFA := holds _
theorem isbAbsY (a : Addr) : Statement (.isbAbsY a) := holds _
theorem nopFCAbsX (a : Addr) : Statement (.nopFCAbsX a) := holds _
theorem sbcAbsX (a : Addr) : Statement (.sbcAbsX a) := holds _
theorem incAbsX (a : Addr) : Statement (.incAbsX a) := holds _
theorem isbAbsX (a : Addr) : Statement (.isbAbsX a) := holds _

end Sys2Proof.Laws.Encoding
end

