-- ==== Sys2Proof/Tests/Slice0.lean ====
section
/-! SUPPORT. The model's own tests: the opcode map of 30_encoding.md R144, the vectors of 95_test_vectors.md, the check of
WellFormed, and for every statement with hypotheses a witness that meets them. Expected results are the spec's. -/

namespace Sys2Proof.Tests

open Sys2Proof Sys2Proof.Machine

set_option Elab.async false

/-! ### Decoding: every opcode, with the operand bytes 0x34 0x12 after it (R144) -/

/-- What the sixteen opcodes of one row of the map decode to. -/
def mapRow (h : Nat) : List Decoded := (List.range 16).map (fun l => decode [BitVec.ofNat 8 (16 * h + l), 0x34, 0x12])

theorem test_decode_row_0x : mapRow 0x0 =
    [.instr (.brk 0x34) [0x12], .instr (.oraIndX 0x34) [0x12], .instr .jam02 [0x34, 0x12],
      .instr (.sloIndX 0x34) [0x12], .instr (.nop04Zp 0x34) [0x12], .instr (.oraZp 0x34) [0x12],
      .instr (.aslZp 0x34) [0x12], .instr (.sloZp 0x34) [0x12], .instr .php [0x34, 0x12],
      .instr (.oraImm 0x34) [0x12], .instr .aslAcc [0x34, 0x12], .instr .anc0B [0x34, 0x12],
      .instr (.nop0CAbs 0x1234) [], .instr (.oraAbs 0x1234) [], .instr (.aslAbs 0x1234) [],
      .instr (.sloAbs 0x1234) []] := by decide +kernel

theorem test_decode_row_1x : mapRow 0x1 =
    [.instr (.bpl 0x34) [0x12], .instr (.oraIndY 0x34) [0x12], .instr .jam12 [0x34, 0x12],
      .instr (.sloIndY 0x34) [0x12], .instr (.nop14ZpX 0x34) [0x12], .instr (.oraZpX 0x34) [0x12],
      .instr (.aslZpX 0x34) [0x12], .instr (.sloZpX 0x34) [0x12], .instr .clc [0x34, 0x12],
      .instr (.oraAbsY 0x1234) [], .instr .nop1A [0x34, 0x12], .instr (.sloAbsY 0x1234) [],
      .instr (.nop1CAbsX 0x1234) [], .instr (.oraAbsX 0x1234) [], .instr (.aslAbsX 0x1234) [],
      .instr (.sloAbsX 0x1234) []] := by decide +kernel

theorem test_decode_row_2x : mapRow 0x2 =
    [.instr (.jsr 0x1234) [], .instr (.andIndX 0x34) [0x12], .instr .jam22 [0x34, 0x12],
      .instr (.rlaIndX 0x34) [0x12], .instr (.bitZp 0x34) [0x12], .instr (.andZp 0x34) [0x12],
      .instr (.rolZp 0x34) [0x12], .instr (.rlaZp 0x34) [0x12], .instr .plp [0x34, 0x12],
      .instr (.andImm 0x34) [0x12], .instr .rolAcc [0x34, 0x12], .instr .anc2B [0x34, 0x12],
      .instr (.bitAbs 0x1234) [], .instr (.andAbs 0x1234) [], .instr (.rolAbs 0x1234) [], .instr (.rlaAbs 0x1234) []] := by decide +kernel

theorem test_decode_row_3x : mapRow 0x3 =
    [.instr (.bmi 0x34) [0x12], .instr (.andIndY 0x34) [0x12], .instr .jam32 [0x34, 0x12],
      .instr (.rlaIndY 0x34) [0x12], .instr (.nop34ZpX 0x34) [0x12], .instr (.andZpX 0x34) [0x12],
      .instr (.rolZpX 0x34) [0x12], .instr (.rlaZpX 0x34) [0x12], .instr .sec [0x34, 0x12],
      .instr (.andAbsY 0x1234) [], .instr .nop3A [0x34, 0x12], .instr (.rlaAbsY 0x1234) [],
      .instr (.nop3CAbsX 0x1234) [], .instr (.andAbsX 0x1234) [], .instr (.rolAbsX 0x1234) [],
      .instr (.rlaAbsX 0x1234) []] := by decide +kernel

theorem test_decode_row_4x : mapRow 0x4 =
    [.instr .rti [0x34, 0x12], .instr (.eorIndX 0x34) [0x12], .instr .jam42 [0x34, 0x12],
      .instr (.sreIndX 0x34) [0x12], .instr (.nop44Zp 0x34) [0x12], .instr (.eorZp 0x34) [0x12],
      .instr (.lsrZp 0x34) [0x12], .instr (.sreZp 0x34) [0x12], .instr .pha [0x34, 0x12],
      .instr (.eorImm 0x34) [0x12], .instr .lsrAcc [0x34, 0x12], .instr .alr [0x34, 0x12], .instr (.jmpAbs 0x1234) [],
      .instr (.eorAbs 0x1234) [], .instr (.lsrAbs 0x1234) [], .instr (.sreAbs 0x1234) []] := by decide +kernel

theorem test_decode_row_5x : mapRow 0x5 =
    [.instr (.bvc 0x34) [0x12], .instr (.eorIndY 0x34) [0x12], .instr .jam52 [0x34, 0x12],
      .instr (.sreIndY 0x34) [0x12], .instr (.nop54ZpX 0x34) [0x12], .instr (.eorZpX 0x34) [0x12],
      .instr (.lsrZpX 0x34) [0x12], .instr (.sreZpX 0x34) [0x12], .instr .cli [0x34, 0x12],
      .instr (.eorAbsY 0x1234) [], .instr .nop5A [0x34, 0x12], .instr (.sreAbsY 0x1234) [],
      .instr (.nop5CAbsX 0x1234) [], .instr (.eorAbsX 0x1234) [], .instr (.lsrAbsX 0x1234) [],
      .instr (.sreAbsX 0x1234) []] := by decide +kernel

theorem test_decode_row_6x : mapRow 0x6 =
    [.instr .rts [0x34, 0x12], .instr (.adcIndX 0x34) [0x12], .instr .jam62 [0x34, 0x12],
      .instr (.rraIndX 0x34) [0x12], .instr (.nop64Zp 0x34) [0x12], .instr (.adcZp 0x34) [0x12],
      .instr (.rorZp 0x34) [0x12], .instr (.rraZp 0x34) [0x12], .instr .pla [0x34, 0x12],
      .instr (.adcImm 0x34) [0x12], .instr .rorAcc [0x34, 0x12], .instr .arr [0x34, 0x12], .instr (.jmpInd 0x1234) [],
      .instr (.adcAbs 0x1234) [], .instr (.rorAbs 0x1234) [], .instr (.rraAbs 0x1234) []] := by decide +kernel

theorem test_decode_row_7x : mapRow 0x7 =
    [.instr (.bvs 0x34) [0x12], .instr (.adcIndY 0x34) [0x12], .instr .jam72 [0x34, 0x12],
      .instr (.rraIndY 0x34) [0x12], .instr (.nop74ZpX 0x34) [0x12], .instr (.adcZpX 0x34) [0x12],
      .instr (.rorZpX 0x34) [0x12], .instr (.rraZpX 0x34) [0x12], .instr .sei [0x34, 0x12],
      .instr (.adcAbsY 0x1234) [], .instr .nop7A [0x34, 0x12], .instr (.rraAbsY 0x1234) [],
      .instr (.nop7CAbsX 0x1234) [], .instr (.adcAbsX 0x1234) [], .instr (.rorAbsX 0x1234) [],
      .instr (.rraAbsX 0x1234) []] := by decide +kernel

theorem test_decode_row_8x : mapRow 0x8 =
    [.instr (.nop80Imm 0x34) [0x12], .instr (.staIndX 0x34) [0x12], .instr (.nop82Imm 0x34) [0x12],
      .instr (.saxIndX 0x34) [0x12], .instr (.styZp 0x34) [0x12], .instr (.staZp 0x34) [0x12],
      .instr (.stxZp 0x34) [0x12], .instr (.saxZp 0x34) [0x12], .instr .dey [0x34, 0x12],
      .instr (.nop89Imm 0x34) [0x12], .instr .txa [0x34, 0x12], .instr .xaa [0x34, 0x12], .instr (.styAbs 0x1234) [],
      .instr (.staAbs 0x1234) [], .instr (.stxAbs 0x1234) [], .instr (.saxAbs 0x1234) []] := by decide +kernel

theorem test_decode_row_9x : mapRow 0x9 =
    [.instr (.bcc 0x34) [0x12], .instr (.staIndY 0x34) [0x12], .instr .jam92 [0x34, 0x12],
      .instr .sha93 [0x34, 0x12], .instr (.styZpX 0x34) [0x12], .instr (.staZpX 0x34) [0x12],
      .instr (.stxZpY 0x34) [0x12], .instr (.saxZpY 0x34) [0x12], .instr .tya [0x34, 0x12],
      .instr (.staAbsY 0x1234) [], .instr .txs [0x34, 0x12], .instr .tas [0x34, 0x12], .instr .shy [0x34, 0x12],
      .instr (.staAbsX 0x1234) [], .instr .shx [0x34, 0x12], .instr .sha9F [0x34, 0x12]] := by decide +kernel

theorem test_decode_row_Ax : mapRow 0xA =
    [.instr (.ldyImm 0x34) [0x12], .instr (.ldaIndX 0x34) [0x12], .instr (.ldxImm 0x34) [0x12],
      .instr (.laxIndX 0x34) [0x12], .instr (.ldyZp 0x34) [0x12], .instr (.ldaZp 0x34) [0x12],
      .instr (.ldxZp 0x34) [0x12], .instr (.laxZp 0x34) [0x12], .instr .tay [0x34, 0x12],
      .instr (.ldaImm 0x34) [0x12], .instr .tax [0x34, 0x12], .instr .lxa [0x34, 0x12], .instr (.ldyAbs 0x1234) [],
      .instr (.ldaAbs 0x1234) [], .instr (.ldxAbs 0x1234) [], .instr (.laxAbs 0x1234) []] := by decide +kernel

theorem test_decode_row_Bx : mapRow 0xB =
    [.instr (.bcs 0x34) [0x12], .instr (.ldaIndY 0x34) [0x12], .instr .jamB2 [0x34, 0x12],
      .instr (.laxIndY 0x34) [0x12], .instr (.ldyZpX 0x34) [0x12], .instr (.ldaZpX 0x34) [0x12],
      .instr (.ldxZpY 0x34) [0x12], .instr (.laxZpY 0x34) [0x12], .instr .clv [0x34, 0x12],
      .instr (.ldaAbsY 0x1234) [], .instr .tsx [0x34, 0x12], .instr .las [0x34, 0x12], .instr (.ldyAbsX 0x1234) [],
      .instr (.ldaAbsX 0x1234) [], .instr (.ldxAbsY 0x1234) [], .instr (.laxAbsY 0x1234) []] := by decide +kernel

theorem test_decode_row_Cx : mapRow 0xC =
    [.instr (.cpyImm 0x34) [0x12], .instr (.cmpIndX 0x34) [0x12], .instr (.nopC2Imm 0x34) [0x12],
      .instr (.dcpIndX 0x34) [0x12], .instr (.cpyZp 0x34) [0x12], .instr (.cmpZp 0x34) [0x12],
      .instr (.decZp 0x34) [0x12], .instr (.dcpZp 0x34) [0x12], .instr .iny [0x34, 0x12],
      .instr (.cmpImm 0x34) [0x12], .instr .dex [0x34, 0x12], .instr .sbx [0x34, 0x12], .instr (.cpyAbs 0x1234) [],
      .instr (.cmpAbs 0x1234) [], .instr (.decAbs 0x1234) [], .instr (.dcpAbs 0x1234) []] := by decide +kernel

theorem test_decode_row_Dx : mapRow 0xD =
    [.instr (.bne 0x34) [0x12], .instr (.cmpIndY 0x34) [0x12], .instr .jamD2 [0x34, 0x12],
      .instr (.dcpIndY 0x34) [0x12], .instr (.nopD4ZpX 0x34) [0x12], .instr (.cmpZpX 0x34) [0x12],
      .instr (.decZpX 0x34) [0x12], .instr (.dcpZpX 0x34) [0x12], .instr .cld [0x34, 0x12],
      .instr (.cmpAbsY 0x1234) [], .instr .nopDA [0x34, 0x12], .instr (.dcpAbsY 0x1234) [],
      .instr (.nopDCAbsX 0x1234) [], .instr (.cmpAbsX 0x1234) [], .instr (.decAbsX 0x1234) [],
      .instr (.dcpAbsX 0x1234) []] := by decide +kernel

theorem test_decode_row_Ex : mapRow 0xE =
    [.instr (.cpxImm 0x34) [0x12], .instr (.sbcIndX 0x34) [0x12], .instr (.nopE2Imm 0x34) [0x12],
      .instr (.isbIndX 0x34) [0x12], .instr (.cpxZp 0x34) [0x12], .instr (.sbcZp 0x34) [0x12],
      .instr (.incZp 0x34) [0x12], .instr (.isbZp 0x34) [0x12], .instr .inx [0x34, 0x12],
      .instr (.sbcImm 0x34) [0x12], .instr .nop [0x34, 0x12], .instr (.sbcEBImm 0x34) [0x12],
      .instr (.cpxAbs 0x1234) [], .instr (.sbcAbs 0x1234) [], .instr (.incAbs 0x1234) [], .instr (.isbAbs 0x1234) []] := by decide +kernel

theorem test_decode_row_Fx : mapRow 0xF =
    [.instr (.beq 0x34) [0x12], .instr (.sbcIndY 0x34) [0x12], .instr .jamF2 [0x34, 0x12],
      .instr (.isbIndY 0x34) [0x12], .instr (.nopF4ZpX 0x34) [0x12], .instr (.sbcZpX 0x34) [0x12],
      .instr (.incZpX 0x34) [0x12], .instr (.isbZpX 0x34) [0x12], .instr .sed [0x34, 0x12],
      .instr (.sbcAbsY 0x1234) [], .instr .nopFA [0x34, 0x12], .instr (.isbAbsY 0x1234) [],
      .instr (.nopFCAbsX 0x1234) [], .instr (.sbcAbsX 0x1234) [], .instr (.incAbsX 0x1234) [],
      .instr (.isbAbsX 0x1234) []] := by decide +kernel

theorem test_decode_short : decode [] = .rejected .noBytes ∧ decode [0xA9] = .rejected (.truncated 0xA9) ∧
    decode [0x20, 0x00] = .rejected (.truncated 0x20) := by decide

theorem test_encode_words : encode (.bne 0xFC) = [0xD0, 0xFC] ∧ encode (.jmpInd 0x10FF) = [0x6C, 0xFF, 0x10] ∧
    encode .tax = [0xAA] ∧ encode (.brk 0x55) = [0x00, 0x55] := by decide

theorem test_table_word : decodeTableWord 24 0x20009D = some (.staAbsX 0x2000) ∧ decodeTableWord 8 0xAD = some (.ldaAbs 0) := by
  decide

/-! ### WellFormed: its one check, the parameter `admitted` (R12, R150) -/

theorem test_wellFormed_refuses_jam : (Instr.jam02).wellFormed = false ∧ (Instr.jamF2).wellFormed = false := by decide

theorem test_wellFormed_refuses_unstable :
    ([.anc0B, .anc2B, .alr, .arr, .xaa, .lxa, .sbx, .sha93, .sha9F, .shy, .shx, .tas, .las] : List Instr).all
      (fun i => !i.wellFormed) = true := by decide

theorem test_wellFormed_admits : (Instr.laxZp 0x10).wellFormed = true ∧ (Instr.brk 0).wellFormed = true := by decide

/-! ### Vectors: one step from the default start state of 95_test_vectors.md section 1

`start` is harness H0, `startNes` harness H1. -/

/-- Memory with bytes placed in it. -/
def cells (l : List Host.Cell) : Memory := l.foldl (fun m c => Memory.write m c.1 c.2) []

/-- Harness H0's start state: flat RAM, running, PC at 0x8000, S at 0xFD, the code and the data as given. -/
def start (code : List Byte) (data : List Host.Cell) : State :=
  { State.powerOn
      { sp := 0xFD, pc := 0x8000, params := { platform := .flat }
        mem := cells ((code.zipIdx.map (fun c => (0x8000 + c.2, c.1))) ++ data) } with
    resetPending := false }

/-- A cartridge with 32 KiB of ROM at 0x8000 and no bank-select register; the bytes are given by their offset. -/
def cartridge (rom : List Host.Cell) : Cartridge :=
  { info := { romSize := 0x8000 }, rom := cells rom, map := { windows := [{ first := 0x8000, last := 0xFFFF, ram := false, offset := 0 }] } }

/-- Harness H1's start state: the map of R83 with the code in ROM at 0x8000. -/
def startNes (code : List Byte) : State :=
  { State.powerOn { sp := 0xFD, pc := 0x8000, cart := cartridge (code.zipIdx.map (fun c => (c.2, c.1))) } with
    resetPending := false }

/-- The same with other registers. -/
def startNesWith (code : List Byte) (f : State → State) : State := f (startNes code)

/-- The start state with other registers. -/
def startWith (code : List Byte) (data : List Host.Cell) (f : State → State) : State := f (start code data)

/-- What one step leaves, as far as a test looks at it; `none` if the step stops. -/
def after {α : Type} (s : State) (look : State → α) : Option α :=
  match step s with
  | .next t => some (look t)
  | .fault _ => none
  | .refused _ => none

/-- `P` as the vectors show it: `Pbyte(0)`. -/
def pbyte (s : State) : Byte := s.flags.pack false

/-- A byte of RAM. -/
def ram (s : State) (a : Nat) : Byte := Memory.byte s.bus.mem a

theorem test_V1_lda_zero : after (startWith [0xA9, 0x00] [] (fun s => { s with a := 0x55 }))
    (fun t => (t.a, pbyte t, t.bus.cycles)) = some (0x00, 0x26, 2) := by decide +kernel

theorem test_V3_lda_zpX_wraps : after (startWith [0xB5, 0x10] [(0x0005, 0x77)] (fun s => { s with x := 0xF5 }))
    (fun t => (t.a, pbyte t, t.bus.cycles)) = some (0x77, 0x24, 4) := by decide +kernel

theorem test_V4_lda_absX_crosses : after (startWith [0xBD, 0xFF, 0x12] [(0x1300, 0x42)] (fun s => { s with x := 0x01 }))
    (fun t => (t.a, pbyte t, t.bus.cycles)) = some (0x42, 0x24, 5) := by decide +kernel

theorem test_V6_lda_indY_wraps : after (startWith [0xB1, 0xFF] [(0x0000, 0x30), (0x3010, 0x99)] (fun s => { s with y := 0x10 }))
    (fun t => (t.a, pbyte t, t.bus.cycles)) = some (0x99, 0xA4, 5) := by decide +kernel

theorem test_V7_lda_indX_wraps : after (startWith [0xA1, 0xFE] [(0x0000, 0x12), (0x00FF, 0x34), (0x1234, 0x01)] (fun s => { s with x := 0x01 }))
    (fun t => (t.a, pbyte t, t.bus.cycles)) = some (0x01, 0x24, 6) := by decide +kernel

theorem test_V8_ldx_zpY : after (startWith [0xB6, 0xFF] [(0x0001, 0xAB)] (fun s => { s with y := 0x02 }))
    (fun t => (t.x, pbyte t, t.bus.cycles)) = some (0xAB, 0xA4, 4) := by decide +kernel

theorem test_V9_ldy_absX_wraps : after (startWith [0xBC, 0xF0, 0xFF] [] (fun s => { s with x := 0x20 }))
    (fun t => (t.y, pbyte t, t.bus.cycles)) = some (0x00, 0x26, 5) := by decide +kernel

theorem test_V10_sta_absX : after (startWith [0x9D, 0x00, 0x20] [] (fun s => { s with a := 0x5A, x := 0x05 }))
    (fun t => (ram t 0x2005, pbyte t, t.bus.cycles)) = some (0x5A, 0x24, 5) := by decide +kernel

theorem test_V11_sta_indY : after (startWith [0x91, 0x40] [(0x0040, 0x01), (0x0041, 0x02)] (fun s => { s with a := 0x11, y := 0xFF }))
    (fun t => (ram t 0x0300, pbyte t, t.bus.cycles)) = some (0x11, 0x24, 6) := by decide +kernel

theorem test_V12_stx_zpY : after (startWith [0x96, 0xF0] [] (fun s => { s with x := 0x66, y := 0x20 }))
    (fun t => (ram t 0x0010, pbyte t, t.bus.cycles)) = some (0x66, 0x24, 4) := by decide +kernel

theorem test_V13_sty_abs : after (startWith [0x8C, 0x34, 0x12] [] (fun s => { s with y := 0x80 }))
    (fun t => (ram t 0x1234, pbyte t, t.bus.cycles)) = some (0x80, 0x24, 4) := by decide +kernel

theorem test_V14_tax : after (startWith [0xAA] [] (fun s => { s with a := 0x81 }))
    (fun t => (t.x, pbyte t, t.bus.cycles)) = some (0x81, 0xA4, 2) := by decide +kernel

theorem test_V15_tay : after (startWith [0xA8] [] (fun s => { s with y := 0x12 }))
    (fun t => (t.y, pbyte t, t.bus.cycles)) = some (0x00, 0x26, 2) := by decide +kernel

theorem test_V16_txa : after (startWith [0x8A] [] (fun s => { s with x := 0x7F, a := 0xFF }))
    (fun t => (t.a, pbyte t, t.bus.cycles)) = some (0x7F, 0x24, 2) := by decide +kernel

theorem test_V17_tya : after (startWith [0x98] [] (fun s => { s with y := 0xFF }))
    (fun t => (t.a, pbyte t, t.bus.cycles)) = some (0xFF, 0xA4, 2) := by decide +kernel

theorem test_V18_tsx : after (startWith [0xBA] [] (fun s => { s with sp := 0x00, x := 0x11 }))
    (fun t => (t.x, pbyte t, t.bus.cycles)) = some (0x00, 0x26, 2) := by decide +kernel

theorem test_V19_txs : after (startWith [0x9A] [] (fun s => { s with flags := { s.flags with n := true } }))
    (fun t => (t.sp, pbyte t, t.bus.cycles)) = some (0x00, 0xA4, 2) := by decide +kernel

theorem test_V20_pha_wraps : after (startWith [0x48] [] (fun s => { s with a := 0x42, sp := 0x00 }))
    (fun t => (t.sp, ram t 0x0100, t.bus.cycles)) = some (0xFF, 0x42, 3) := by decide +kernel

theorem test_V21_php : after (startWith [0x08] [] (fun s => { s with flags := { s.flags with c := true, n := true, i := false } }))
    (fun t => (ram t 0x01FD, pbyte t, t.bus.cycles)) = some (0xB1, 0xA1, 3) := by decide +kernel

theorem test_V22_pla_wraps : after (startWith [0x68] [] (fun s => { s with sp := 0xFF, a := 0x33 }))
    (fun t => (t.a, t.sp, pbyte t)) = some (0x00, 0x00, 0x26) := by decide +kernel

theorem test_V23_plp : after (startWith [0x28] [(0x01FD, 0xFF)] (fun s => { s with sp := 0xFC }))
    (fun t => (t.sp, pbyte t, t.bus.cycles)) = some (0xFD, 0xEF, 4) := by decide +kernel

theorem test_V24_plp_clears : after (startWith [0x28] [(0x01FD, 0x30)] (fun s => { s with sp := 0xFC, flags := { s.flags with c := true } }))
    (fun t => (t.sp, pbyte t, t.bus.cycles)) = some (0xFD, 0x20, 4) := by decide +kernel

theorem test_V25_adc_overflow : after (startWith [0x69, 0x50] [] (fun s => { s with a := 0x50 }))
    (fun t => (t.a, pbyte t, t.bus.cycles)) = some (0xA0, 0xE4, 2) := by decide +kernel

theorem test_V29_adc_decimal : after (startWith [0x69, 0x01] [] (fun s => { s with a := 0x09, flags := { s.flags with d := true } }))
    (fun t => (t.a, pbyte t, t.bus.cycles)) = some (0x0A, 0x2C, 2) := by decide +kernel

theorem test_V31_sbc_overflow : after (startWith [0xE9, 0xB0] [] (fun s => { s with a := 0x50, flags := { s.flags with c := true } }))
    (fun t => (t.a, pbyte t, t.bus.cycles)) = some (0xA0, 0xE4, 2) := by decide +kernel

theorem test_V33_sbc_borrow : after (startWith [0xE9, 0x03] [] (fun s => { s with a := 0x05 }))
    (fun t => (t.a, pbyte t, t.bus.cycles)) = some (0x01, 0x25, 2) := by decide +kernel

theorem test_V35_and : after (startWith [0x29, 0x0F] [] (fun s => { s with a := 0xF0 }))
    (fun t => (t.a, pbyte t, t.bus.cycles)) = some (0x00, 0x26, 2) := by decide +kernel

theorem test_V36_ora : after (startWith [0x09, 0x80] [] (fun s => { s with a := 0x01 }))
    (fun t => (t.a, pbyte t, t.bus.cycles)) = some (0x81, 0xA4, 2) := by decide +kernel

theorem test_V37_eor : after (startWith [0x49, 0xFF] [] (fun s => { s with a := 0xFF }))
    (fun t => (t.a, pbyte t, t.bus.cycles)) = some (0x00, 0x26, 2) := by decide +kernel

theorem test_V38_bit : after (start [0x24, 0x10] [(0x0010, 0xC0)])
    (fun t => (t.a, pbyte t, t.bus.cycles)) = some (0x00, 0xE6, 3) := by decide +kernel

theorem test_V39_bit_clears : after (startWith [0x2C, 0x00, 0x02] [(0x0200, 0x01)] (fun s => { s with a := 0x01, flags := { s.flags with n := true, v := true } }))
    (fun t => (t.a, pbyte t, t.bus.cycles)) = some (0x01, 0x24, 4) := by decide +kernel

theorem test_V40_cmp_equal : after (startWith [0xC9, 0x10] [] (fun s => { s with a := 0x10 }))
    (fun t => (t.a, pbyte t, t.bus.cycles)) = some (0x10, 0x27, 2) := by decide +kernel

theorem test_V41_cmp_less : after (startWith [0xC9, 0x10] [] (fun s => { s with a := 0x05 }))
    (fun t => (t.a, pbyte t, t.bus.cycles)) = some (0x05, 0xA4, 2) := by decide +kernel

theorem test_V43_cpx : after (start [0xE0, 0xFF] [])
    (fun t => (t.x, pbyte t, t.bus.cycles)) = some (0x00, 0x24, 2) := by decide +kernel

theorem test_V44_cpy : after (startWith [0xC0, 0x00] [] (fun s => { s with y := 0x80 }))
    (fun t => (t.y, pbyte t, t.bus.cycles)) = some (0x80, 0xA5, 2) := by decide +kernel

theorem test_V45_inc_wraps : after (start [0xE6, 0x10] [(0x0010, 0xFF)])
    (fun t => (ram t 0x0010, pbyte t, t.bus.cycles)) = some (0x00, 0x26, 5) := by decide +kernel

theorem test_V46_dec_wraps : after (start [0xC6, 0x10] [])
    (fun t => (ram t 0x0010, pbyte t, t.bus.cycles)) = some (0xFF, 0xA4, 5) := by decide +kernel

theorem test_V47_inx_wraps : after (startWith [0xE8] [] (fun s => { s with x := 0xFF }))
    (fun t => (t.x, pbyte t, t.bus.cycles)) = some (0x00, 0x26, 2) := by decide +kernel

theorem test_V48_iny : after (startWith [0xC8] [] (fun s => { s with y := 0x7F }))
    (fun t => (t.y, pbyte t, t.bus.cycles)) = some (0x80, 0xA4, 2) := by decide +kernel

theorem test_V49_dex : after (startWith [0xCA] [] (fun s => { s with x := 0x01 }))
    (fun t => (t.x, pbyte t, t.bus.cycles)) = some (0x00, 0x26, 2) := by decide +kernel

theorem test_V50_dey_wraps : after (start [0x88] [])
    (fun t => (t.y, pbyte t, t.bus.cycles)) = some (0xFF, 0xA4, 2) := by decide +kernel

theorem test_V51_asl_a : after (startWith [0x0A] [] (fun s => { s with a := 0x80 }))
    (fun t => (t.a, pbyte t, t.bus.cycles)) = some (0x00, 0x27, 2) := by decide +kernel

theorem test_V52_asl_zp : after (start [0x06, 0x10] [(0x0010, 0x41)])
    (fun t => (ram t 0x0010, pbyte t, t.bus.cycles)) = some (0x82, 0xA4, 5) := by decide +kernel

theorem test_V53_lsr_a : after (startWith [0x4A] [] (fun s => { s with a := 0x01 }))
    (fun t => (t.a, pbyte t, t.bus.cycles)) = some (0x00, 0x27, 2) := by decide +kernel

theorem test_V54_rol_a : after (startWith [0x2A] [] (fun s => { s with a := 0x80, flags := { s.flags with c := true } }))
    (fun t => (t.a, pbyte t, t.bus.cycles)) = some (0x01, 0x25, 2) := by decide +kernel

theorem test_V55_ror_a : after (startWith [0x6A] [] (fun s => { s with a := 0x01, flags := { s.flags with c := true } }))
    (fun t => (t.a, pbyte t, t.bus.cycles)) = some (0x80, 0xA5, 2) := by decide +kernel

theorem test_V56_ror_absX : after (startWith [0x7E, 0xFF, 0x02] [(0x0300, 0x02)] (fun s => { s with x := 0x01 }))
    (fun t => (ram t 0x0300, pbyte t, t.bus.cycles)) = some (0x01, 0x24, 7) := by decide +kernel

theorem test_V58_bne_not_taken : after (startWith [0xD0, 0x05] [] (fun s => { s with flags := { s.flags with z := true } }))
    (fun t => (t.pc, t.bus.cycles)) = some (0x8002, 2) := by decide +kernel

theorem test_V59_bne_crosses : after (start [0xD0, 0xFC] [])
    (fun t => (t.pc, t.bus.cycles)) = some (0x7FFE, 4) := by decide +kernel

theorem test_V60_beq_itself : after (startWith [0xF0, 0xFE] [] (fun s => { s with flags := { s.flags with z := true } }))
    (fun t => (t.pc, t.bus.cycles)) = some (0x8000, 3) := by decide +kernel

theorem test_bpl_taken : after (startWith [0x10, 0x7F] [] (fun s => { s with flags := { s.flags with n := false } }))
    (fun t => (t.pc, t.bus.cycles)) = some (0x8081, 3) := by decide +kernel

theorem test_bmi_taken : after (startWith [0x30, 0x7F] [] (fun s => { s with flags := { s.flags with n := true } }))
    (fun t => (t.pc, t.bus.cycles)) = some (0x8081, 3) := by decide +kernel

theorem test_bvc_taken : after (startWith [0x50, 0x7F] [] (fun s => { s with flags := { s.flags with v := false } }))
    (fun t => (t.pc, t.bus.cycles)) = some (0x8081, 3) := by decide +kernel

theorem test_bvs_taken : after (startWith [0x70, 0x7F] [] (fun s => { s with flags := { s.flags with v := true } }))
    (fun t => (t.pc, t.bus.cycles)) = some (0x8081, 3) := by decide +kernel

theorem test_bcc_taken : after (startWith [0x90, 0x7F] [] (fun s => { s with flags := { s.flags with c := false } }))
    (fun t => (t.pc, t.bus.cycles)) = some (0x8081, 3) := by decide +kernel

theorem test_bcs_taken : after (startWith [0xB0, 0x7F] [] (fun s => { s with flags := { s.flags with c := true } }))
    (fun t => (t.pc, t.bus.cycles)) = some (0x8081, 3) := by decide +kernel

theorem test_V61_jmp_abs : after (start [0x4C, 0x34, 0x12] [])
    (fun t => (t.pc, t.bus.cycles)) = some (0x1234, 3) := by decide +kernel

theorem test_V62_jmp_ind_page : after (start [0x6C, 0xFF, 0x10] [(0x1000, 0x12), (0x10FF, 0x34), (0x1100, 0x56)])
    (fun t => (t.pc, t.bus.cycles)) = some (0x1234, 5) := by decide +kernel

theorem test_V63_jsr : after (start [0x20, 0x00, 0x90] [])
    (fun t => (t.pc, t.sp, ram t 0x01FD, ram t 0x01FC, t.bus.cycles)) = some (0x9000, 0xFB, 0x80, 0x02, 6) := by decide +kernel

theorem test_V64_rts : after (startWith [0x60] [(0x01FC, 0x02), (0x01FD, 0x80)] (fun s => { s with sp := 0xFB }))
    (fun t => (t.pc, t.sp, t.bus.cycles)) = some (0x8003, 0xFD, 6) := by decide +kernel

theorem test_V65_clc : after (startWith [0x18] [] (fun s => { s with flags := { s.flags with c := true } }))
    (fun t => (pbyte t, t.bus.cycles)) = some (0x24, 2) := by decide +kernel

theorem test_V66_sec : after (start [0x38] [])
    (fun t => (pbyte t, t.bus.cycles)) = some (0x25, 2) := by decide +kernel

theorem test_V67_sei : after (startWith [0x78] [] (fun s => { s with flags := { s.flags with i := false } }))
    (fun t => (pbyte t, t.bus.cycles)) = some (0x24, 2) := by decide +kernel

theorem test_V68_cld : after (startWith [0xD8] [] (fun s => { s with flags := { s.flags with d := true } }))
    (fun t => (pbyte t, t.bus.cycles)) = some (0x24, 2) := by decide +kernel

theorem test_V69_sed : after (start [0xF8] [])
    (fun t => (pbyte t, t.bus.cycles)) = some (0x2C, 2) := by decide +kernel

theorem test_V70_clv : after (startWith [0xB8] [] (fun s => { s with flags := { s.flags with v := true } }))
    (fun t => (pbyte t, t.bus.cycles)) = some (0x24, 2) := by decide +kernel

theorem test_V71_nop : after (start [0xEA] [])
    (fun t => (t.pc, t.bus.cycles)) = some (0x8001, 2) := by decide +kernel

theorem test_V72_brk : after (startWith [0x00, 0xFF] [(0xFFFE, 0x00), (0xFFFF, 0x90)] (fun s => { s with flags := { s.flags with c := true, i := false } }))
    (fun t => (t.pc, ram t 0x01FD, ram t 0x01FC, ram t 0x01FB, pbyte t)) = some (0x9000, 0x80, 0x02, 0x31, 0x25) := by decide +kernel

theorem test_V73_rti : after (startWith [0x40] [(0x01FB, 0xF3), (0x01FC, 0x34), (0x01FD, 0x12)] (fun s => { s with sp := 0xFA }))
    (fun t => (t.pc, t.sp, pbyte t, t.bus.cycles)) = some (0x1234, 0xFD, 0xE3, 6) := by decide +kernel

theorem test_V74_cli_then_irq : after (startWith [0x58] [] (fun s => { s with bus := { s.bus with cart := { s.bus.cart with map := { irq := true } } } }))
    (fun t => (pbyte t, t.poll)) = some (0x20, .irq) := by decide +kernel

theorem test_V75_nop_abs : after (start [0x0C, 0x00, 0x20] [])
    (fun t => (t.pc, t.bus.cycles)) = some (0x8003, 4) := by decide +kernel

theorem test_V76_nop_absX : after (startWith [0x1C, 0xFF, 0x20] [] (fun s => { s with x := 0x01 }))
    (fun t => (t.pc, t.bus.cycles)) = some (0x8003, 5) := by decide +kernel

theorem test_V77_nop_imm : after (start [0x80, 0x55] [])
    (fun t => (t.pc, t.bus.cycles)) = some (0x8002, 2) := by decide +kernel

theorem test_V78_lax : after (start [0xA7, 0x10] [(0x0010, 0x8F)])
    (fun t => (t.a, t.x, pbyte t)) = some (0x8F, 0x8F, 0xA4) := by decide +kernel

theorem test_V79_sax : after (startWith [0x87, 0x10] [] (fun s => { s with a := 0xF0, x := 0x3C, flags := { s.flags with z := true } }))
    (fun t => (ram t 0x0010, pbyte t, t.bus.cycles)) = some (0x30, 0x26, 3) := by decide +kernel

theorem test_V80_slo : after (startWith [0x07, 0x10] [(0x0010, 0x81)] (fun s => { s with a := 0x01 }))
    (fun t => (t.a, ram t 0x0010, pbyte t, t.bus.cycles)) = some (0x03, 0x02, 0x25, 5) := by decide +kernel

theorem test_V81_rla : after (startWith [0x27, 0x10] [(0x0010, 0x80)] (fun s => { s with a := 0xFF, flags := { s.flags with c := true } }))
    (fun t => (t.a, ram t 0x0010, pbyte t, t.bus.cycles)) = some (0x01, 0x01, 0x25, 5) := by decide +kernel

theorem test_V82_sre : after (startWith [0x47, 0x10] [(0x0010, 0x03)] (fun s => { s with a := 0x03 }))
    (fun t => (t.a, ram t 0x0010, pbyte t, t.bus.cycles)) = some (0x02, 0x01, 0x25, 5) := by decide +kernel

theorem test_V83_rra : after (startWith [0x67, 0x10] [(0x0010, 0x02)] (fun s => { s with a := 0x10, flags := { s.flags with c := true } }))
    (fun t => (t.a, ram t 0x0010, pbyte t, t.bus.cycles)) = some (0x91, 0x81, 0xA4, 5) := by decide +kernel

theorem test_V84_sbc_EB : after (startWith [0xEB, 0x01] [] (fun s => { s with flags := { s.flags with c := true } }))
    (fun t => (t.a, pbyte t, t.bus.cycles)) = some (0xFF, 0xA4, 2) := by decide +kernel

theorem test_V85_dcp : after (startWith [0xC7, 0x10] [(0x0010, 0x06)] (fun s => { s with a := 0x05 }))
    (fun t => (t.a, ram t 0x0010, pbyte t, t.bus.cycles)) = some (0x05, 0x05, 0x27, 5) := by decide +kernel

theorem test_V86_isb : after (startWith [0xE7, 0x10] [(0x0010, 0xFF)] (fun s => { s with a := 0x05, flags := { s.flags with c := true } }))
    (fun t => (t.a, ram t 0x0010, pbyte t, t.bus.cycles)) = some (0x05, 0x00, 0x25, 5) := by decide +kernel

theorem test_V87_slo_absY : after (startWith [0x1B, 0xFF, 0x02] [(0x0300, 0x40)] (fun s => { s with y := 0x01 }))
    (fun t => (ram t 0x0300, pbyte t, t.bus.cycles)) = some (0x80, 0xA4, 7) := by decide +kernel

theorem test_V88_irq_entry : after (startWith [0xEA] [(0xFFFE, 0x00), (0xFFFF, 0x90)] (fun s => { s with flags := { s.flags with i := false, c := true }, bus := { s.bus with cart := { s.bus.cart with map := { irq := true } } } }))
    (fun t => (t.pc, ram t 0x01FC, ram t 0x01FB, pbyte t, t.bus.cycles)) = some (0x9000, 0x00, 0x21, 0x25, 7) := by decide +kernel

theorem test_V89_irq_masked : after (startWith [0xEA] [] (fun s => { s with bus := { s.bus with cart := { s.bus.cart with map := { irq := true } } } }))
    (fun t => (t.pc, t.bus.cycles)) = some (0x8001, 2) := by decide +kernel

theorem test_V91_nmi_before_irq : after (startWith [0xEA] [(0xFFFA, 0x00), (0xFFFB, 0xA0)] (fun s => { s with flags := { s.flags with i := false }, bus := { s.bus with nmiPending := true, cart := { s.bus.cart with map := { irq := true } } } }))
    (fun t => (t.pc, t.bus.nmiPending, t.poll)) = some (0xA000, false, .instruction) := by decide +kernel

theorem test_V92_jam : after (start [0x02] [])
    (fun t => (t.pc, t.fatal, t.bus.cycles)) = some (0x8001, some { op := 0x02, addr := 0x8000 }, 1) := by decide +kernel

theorem test_V93_xaa : after (startWith [0x8B, 0x00] [] (fun s => { s with a := 0x12 }))
    (fun t => (t.a, t.pc, t.fatal)) = some (0x12, 0x8001, some { op := 0x8B, addr := 0x8000 }) := by decide +kernel

theorem test_V95_warm_reset : after (startWith [] [(0xFFFC, 0x00), (0xFFFD, 0x80)] (fun s => { s with a := 0x12, sp := 0xF0, resetPending := true, flags := { s.flags with c := true, i := false } }))
    (fun t => (t.a, t.sp, t.pc, pbyte t, t.bus.cycles)) = some (0x12, 0xED, 0x8000, 0x25, 7) := by decide +kernel

theorem test_V94_power_on : after (State.powerOn { params := { platform := .flat }, mem := [(0xFFFD, 0x80)] })
    (fun t => (t.sp, t.pc, pbyte t, t.resetPending, t.bus.cycles)) = some (0xFD, 0x8000, 0x24, false, 7) := by decide +kernel

theorem test_V96_fatal_stays :
    stepReturn { State.reset with fatal := some { op := 0x02, addr := 0x8000 } } = some (.illegalOpcode 0x02 0x8000) := by
  decide +kernel

theorem test_V97_ram_mirror : after (startNesWith [0x8D, 0x00, 0x08] (fun s => { s with a := 0x5A }))
    (fun t => (ram t 0, t.bus.cycles)) = some (0x5A, 4) := by decide +kernel

theorem test_V98_open_bus : after (startNes [0xAD, 0x18, 0x40])
    (fun t => (t.a, t.bus.cycles)) = some (0x40, 4) := by decide +kernel

theorem test_V99_write_only : after (startNes [0xAD, 0x00, 0x40])
    (fun t => (t.a, t.bus.cycles)) = some (0x40, 4) := by decide +kernel

theorem test_V100_oam_dma_odd : after (startNesWith [0x8D, 0x14, 0x40] (fun s => { s with a := 0x02, bus := { s.bus with cycles := 7 } }))
    (fun t => (t.bus.cycles)) = some (7 + 518) := by decide +kernel

theorem test_V101_oam_dma_even : after (startNesWith [0x8D, 0x14, 0x40] (fun s => { s with a := 0x02, bus := { s.bus with cycles := 8 } }))
    (fun t => (t.bus.cycles)) = some (8 + 517) := by decide +kernel

theorem test_V102_rmw_dma : after (startNes [0xEE, 0x14, 0x40])
    (fun t => (t.bus.cycles, t.bus.openBus, t.bus.dma)) = some (6 + 513, 0x41, {}) := by decide +kernel

theorem test_withFetchWord : after (State.reset.withFetchWord 16 0x80A9)
    (fun t => (t.a, t.pc)) = some (0x80, 0x0002) := by decide +kernel

/-- An even store under parameters other than the defaults (R14). -/
theorem test_R14_stalls : after (startNesWith [0x8D, 0x14, 0x40] (fun s => { s with bus := { s.bus with params := { oamAlignEven := 5, dmcIdle := 7 }, dma := { dmc := some 0x8000 } } }))
    (fun t => (t.bus.cycles, t.bus.apu.sampleByte)) = some (4 + 512 + 5 + 8, 0x8D) := by decide +kernel

theorem test_R85_write_only : after (startNesWith [0xAD, 0x00, 0x20] (fun s => { s with bus := { s.bus with params := { writeOnlyRead := .fixed 0x77 } } }))
    (fun t => t.a) = some 0x77 := by decide +kernel

/-- A cartridge of two banks of four bytes at 0x8000 and a bank-select register at 0xC000 to 0xFFFF (T4). -/
def banked : Cartridge :=
  { info := { romSize := 8 }, mapper := .banked [{ first := 0xC000, last := 0xFFFF, window := 0, size := 4, count := 2 }]
    rom := cells [(1, 0x11), (5, 0x55)], map := { windows := [{ first := 0x8000, last := 0x8003, ram := false, offset := 0 }] } }

/-- The CPU with that cartridge. -/
def banks : State := { State.powerOn { a := 0x03, pc := 0x0200, mem := cells [(0x0200, 0x8D), (0x0202, 0xC0)], cart := banked } with resetPending := false }

theorem test_T4_bank_switch : (banks.bus.read 0x8001).1 = 0x11 ∧ after banks (fun t => (t.bus.read 0x8001).1) = some 0x55 ∧
    after { banks with bus := { banks.bus with dma := { dmc := some 0x8001 } } } (fun t => t.bus.apu.sampleByte) = some 0x55 := by
  decide +kernel

theorem test_reset_memory_wf : Memory.wf State.reset.bus.mem = true := by decide

theorem test_vblank_starts : (({ scanline := 241, dot := 0, ctrl := { written := 0x80, inForce := 0 } } : Ppu).advance).nmiLevel = true := by decide

/-! ### Witnesses: for every statement with hypotheses, a state and operands that meet them -/

/-- Does a step answer a next state? -/
def steps (s : State) : Bool := (after s (fun _ => ())).isSome

theorem bus_inv_start : (start [0xEA] []).bus.Inv := by
  constructor <;> first | exact fun _ => rfl | decide +kernel

theorem witness_StepKeepsInvariant : (start [0xEA] []).Inv ∧ steps (start [0xEA] []) = true :=
  ⟨⟨bus_inv_start, fun _ => by decide, fun e h => absurd h (by simp [start, State.powerOn])⟩, by decide +kernel⟩

/-- Stores with an entry at the last cell of each, which meet the hypotheses of that statement. -/
theorem witness_ResetStateMeetsInvariant :
    let p : PowerOn := { mem := [(0x7FF, 1)], cart := { info := { romSize := 16, ramSize := 8 }, rom := [(15, 2)], work := [(7, 3)] } }
    Memory.wf p.mem = true ∧ (∀ c ∈ p.mem, c.1 < ramCells p.params.platform) ∧ Memory.wf p.cart.rom = true ∧
    (∀ c ∈ p.cart.rom, c.1 < p.cart.info.romSize) ∧ Memory.wf p.cart.work = true ∧ (∀ c ∈ p.cart.work, c.1 < p.cart.info.ramSize) := by
  decide +kernel

theorem witness_ResetStateIsPowerOnState :
    regionOf .nes 0x0000 = .ram ∧ regionOf .nes 0x1FFF = .ram ∧ regionOf .flat 0xFFFF = .ram := by decide

/-- Does the instruction a step of `s` runs answer a next state, and one that `f` holds of? -/
def runsTo (s : State) (f : State → Bool) : Bool :=
  match exec s.takeInputs.fetchInstr.1 s.takeInputs.fetchInstr.2 with
  | .next w => f w
  | .fault _ => false
  | .refused _ => false

theorem witness_StepTakesOneSequence :
    State.reset.fatal = none ∧ State.reset.takeInputs.poll = .reset ∧
    (startWith [] [] (fun s => { s with bus := { s.bus with nmiPending := true } })).poll = .nmi ∧
    (startWith [] [] (fun s => { s with flags := {}, inputs := [[.mapperIrq true]] })).takeInputs.bus.irqLine = true ∧
    (startWith [] [] (fun s => { s with flags := { s.flags with i := false }, inputs := [[.mapperIrq true]] })).takeInputs.poll =
      .irq ∧
    (start [] []).takeInputs.poll = .instruction ∧
    runsTo (start [0xEA] []) (fun w => w.fatal.isNone) = true ∧ runsTo (start [0x02] []) (fun w => w.fatal.isSome) = true := by
  decide +kernel

/-- The three bytes of an instruction that wraps from 0xFFFF, in ROM, to 0x0000, in RAM. -/
def wrapped : State :=
  { State.powerOn { sp := 0xFD, pc := 0xFFFF, mem := cells [(0x0000, 0x34), (0x0001, 0x12)], cart := cartridge [(0x7FFF, 0x4C)] } with
    resetPending := false }

theorem witness_StepRunsDecodedInstruction :
    wrapped.fatal = none ∧ wrapped.takeInputs.poll = .instruction ∧
    wrapped.takeInputs.bus.readsAs wrapped.takeInputs.pc (encode (.jmpAbs 0x1234)) ∧
    (∀ k, k < (encode (.jmpAbs 0x1234)).length →
      wrapped.bus.storage (wrapped.pc + BitVec.ofNat 16 k) = (encode (.jmpAbs 0x1234))[k]? ∧
      wrapped.bus.still (wrapped.pc + BitVec.ofNat 16 k) = true) := by
  refine ⟨by decide +kernel, by decide +kernel, ⟨?_, ?_, ?_, trivial⟩, ?_⟩ <;> decide +kernel

theorem witness_FatalMachineReturnsItsError :
    (startWith [] [] (fun s => { s with fatal := some { op := 0x02, addr := 0x8000 } })).fatal =
      some { op := 0x02, addr := 0x8000 } := by decide

theorem witness_RefusedOpcodeIsFatal :
    (Instr.xaa).shape = .refused 0x8B ∧ (start [0x8B] []).fatal = none ∧ (start [0x8B] []).takeInputs.poll = .instruction ∧
    (0x8B : Byte) ∈ refusedOpcodes ∧ ((start [0x8B] []).takeInputs.bus.read (start [0x8B] []).takeInputs.pc).1 = 0x8B := by
  decide +kernel

theorem witness_EveryInstructionCompletes :
    (Instr.nop).wellFormed = true ∧ (startWith [] [] (fun s => { s with bus := { s.bus with nmiPending := true } })).bus.nmiPending =
      true ∧ (∀ op e, (Instr.nop).shape ≠ .write op e) ∧ (∀ op e, (Instr.nop).shape ≠ .rmw op e) ∧
    (∀ a, (Instr.nop).shape ≠ .jsr a) ∧ (Instr.nop).shape ≠ .pha ∧ (Instr.nop).shape ≠ .php ∧
    (∀ g, (Instr.nop).shape ≠ .brk g) := by
  refine ⟨by decide, by decide, ?_, ?_, ?_, ?_, ?_, ?_⟩ <;> simp [Instr.shape]

theorem witness_ResetSequenceLoadsVector :
    let s := State.powerOn { cart := cartridge [(0x7FFD, 0x80)] }
    s.fatal = none ∧ s.takeInputs.resetPending = true ∧ s.takeInputs.bus.ppu.ctrl.written.getLsbD 7 = false ∧
    s.takeInputs.bus.still 0xFFFC = true ∧ s.takeInputs.bus.still 0xFFFD = true ∧
    s.takeInputs.bus.storage 0xFFFC = some 0x00 ∧ s.takeInputs.bus.storage 0xFFFD = some 0x80 ∧
    State.reset.bus.storage 0xFFFC = none ∧ State.reset.bus.still 0xFFFC = true := by decide +kernel

theorem witness_InterruptEntryPushesAndVectors :
    let s := startNes []
    Entry.nmi ∈ [Entry.nmi, Entry.irq] ∧ Entry.irq ∈ [Entry.nmi, Entry.irq] ∧ s.bus.ppu.ctrl.written.getLsbD 7 = false ∧
    s.bus.still 0xFFFA = true ∧ s.bus.still (0xFFFA + 1) = true ∧ s.bus.still 0xFFFE = true ∧
    s.bus.still (0xFFFE + 1) = true := by decide +kernel

theorem witness_BrkPushesAndVectors : (startNes []).bus.still 0xFFFE = true ∧ (startNes []).bus.still 0xFFFF = true := by
  decide +kernel

theorem witness_RtiUndoesEntry :
    let s := startWith [] [] (fun s => { s with sp := 0x00 })
    let u := s.takeException .brk
    u.sp = (s.takeException .brk).sp ∧
    (∀ j : Byte, j ∈ [s.sp, s.sp - 1, s.sp - 2] →
      u.bus.storage (stackAddr j) = (s.takeException .brk).bus.storage (stackAddr j)) := ⟨rfl, fun _ _ => rfl⟩

theorem witness_JsrPushesReturnAddress :
    let s := startNesWith [0x20, 0x00, 0x90] (fun s => { s with pc := 0x8002 })
    let u := startNesWith [] (fun s => { s with pc := 0x01FD })
    let v := startNesWith [] (fun s => { s with pc := 0x09FC })
    s.bus.storage s.pc = some 0x90 ∧ s.bus.still s.pc = true ∧ s.bus.sameCell s.pc (stackAddr s.sp) = false ∧
    s.bus.sameCell s.pc (stackAddr (s.sp - 1)) = false ∧ u.bus.sameCell u.pc (stackAddr u.sp) = true ∧
    v.bus.sameCell v.pc (stackAddr (v.sp - 1)) = true := by decide +kernel

theorem witness_RtsUndoesJsr :
    let s := startWith [0x20, 0x00, 0x90] [] (fun s => { s with pc := 0x8002, sp := 0x00 })
    let t := Machine.opJsr 0x9000 s
    s.pc = 0x8000 + 2 ∧ exec (.jsr 0x9000) s = .next t ∧ t.sp = t.sp ∧
    t.bus.storage (stackAddr s.sp) = t.bus.storage (stackAddr s.sp) ∧
    t.bus.storage (stackAddr (s.sp - 1)) = t.bus.storage (stackAddr (s.sp - 1)) := ⟨rfl, rfl, rfl, rfl, rfl⟩

theorem witness_BranchesTestTheirFlag :
    ((Instr.beq 0x80, (start [] []).flags.z) : Instr × Bool) ∈
      ([(.bpl 0x80, !(start [] []).flags.n), (.bmi 0x80, (start [] []).flags.n), (.bvc 0x80, !(start [] []).flags.v),
        (.bvs 0x80, (start [] []).flags.v), (.bcc 0x80, !(start [] []).flags.c), (.bcs 0x80, (start [] []).flags.c),
        (.bne 0x80, !(start [] []).flags.z), (.beq 0x80, (start [] []).flags.z)] : List (Instr × Bool)) := by decide

/-- A branch not taken, taken in the page, and taken across it (R320). -/
theorem witness_BranchesTestTheirFlag_cases :
    let s := start [0xEA] []
    s.flags.z = false ∧ (!s.flags.z) = true ∧ hi (BitVec.ofInt 16 (s.pc.toNat + (0x05 : Byte).toInt)) = hi s.pc ∧
    hi (BitVec.ofInt 16 (s.pc.toNat + (0x80 : Byte).toInt)) ≠ hi s.pc := by decide +kernel

theorem witness_InputsLeaveTheCpuAlone :
    let s : State := { State.reset with inputs := [[.buttons1 0x01, .reset] ++ [.dmcFetch 0xC000], [.buttons2 0x80]] }
    s.inputs = ([.buttons1 0x01, .reset] ++ [.dmcFetch 0xC000]) :: [[.buttons2 0x80]] ∧
    PlatformEvent.reset ∈ ([.buttons1 0x01, .reset] : List PlatformEvent) ∧ s.takeInputs.inputs = [.buttons2 0x80] :: [] ∧
    PlatformEvent.reset ∉ ([.buttons2 0x80] : List PlatformEvent) ∧ State.reset.inputs = [] := by decide +kernel

theorem witness_JumpsLoadPc :
    let s := start [] [(0x1000, 0x12), (0x10FF, 0x34)]
    let q : Addr := BitVec.ofNat 16 ((0x10FF : Addr).toNat / 256 * 256 + ((0x10FF : Addr).toNat + 1) % 256)
    s.bus.storage 0x10FF = some 0x34 ∧ s.bus.storage q = some 0x12 ∧ s.bus.still q = true := by decide +kernel

theorem witness_LoadsTakeOperand :
    (Instr.ldaImm 1).shape = .read .lda (.imm 1) ∧ (Instr.ldxZpY 1).shape = .read .ldx (.mem (.zpY 1)) ∧
    (Instr.ldyAbsX 1).shape = .read .ldy (.mem (.absX 1)) ∧ (Instr.laxIndY 1).shape = .read .lax (.mem (.indY 1)) := by decide

/-- A cartridge with 8 KiB of PRG RAM, seen at 0x6000 and again at 0x8000. -/
def workCart : Cartridge :=
  { info := { ramSize := 0x2000 }
    map := { windows := [{ first := 0x6000, last := 0x7FFF, ram := true, offset := 0 }, { first := 0x8000, last := 0x9FFF, ram := true, offset := 0 }] } }

theorem witness_StoresWriteRegister :
    let b : Bus := { cart := workCart }
    (Instr.staAbsX 0x0700).shape = .write .sta (.absX 0x0700) ∧ (Instr.stxZpY 1).shape = .write .stx (.zpY 1) ∧
    (Instr.styAbs 1).shape = .write .sty (.abs 1) ∧ (Instr.saxIndX 1).shape = .write .sax (.indX 1) ∧
    b.sameCell 0x1FFF 0x07FF = true ∧ b.writable 0x07FF = true ∧ b.sameCell 0x9FFF 0x7FFF = true ∧
    b.writable 0x7FFF = true := by decide

theorem witness_AddWithCarry : (Instr.adcIndX 0xFF).shape = .read .adc (.mem (.indX 0xFF)) := by decide

theorem witness_SubtractWithBorrow :
    (Instr.sbcEBImm 0xFF).shape = .read .sbc (.imm 0xFF) ∧ (Instr.sbcZp 1).shape = .read .sbc (.mem (.zp 1)) := by decide

theorem witness_DecimalFlagHasNoEffect :
    (Instr.adcImm 1).shape = .read .adc (.imm 1) ∧ (Instr.sbcImm 1).shape = .read .sbc (.imm 1) ∧
    (Instr.rraZp 1).shape = .rmw .rra (.zp 1) ∧ (Instr.isbAbsY 1).shape = .rmw .isb (.absY 1) ∧
    exec (.adcImm 1) State.reset = .next (opAdc (.imm 1) State.reset) := ⟨rfl, rfl, rfl, rfl, rfl⟩

theorem witness_LogicCombinesOperand :
    (Instr.andImm 1).shape = .read .and (.imm 1) ∧ (Instr.oraAbs 1).shape = .read .ora (.mem (.abs 1)) ∧
    (Instr.eorIndY 1).shape = .read .eor (.mem (.indY 1)) := by decide

theorem witness_BitTestsOperand : (Instr.bitZp 1).shape = .read .bit (.mem (.zp 1)) := by decide

theorem witness_ComparesSetCarryZeroNegative :
    (Instr.cmpAbsY 1).shape = .read .cmp (.mem (.absY 1)) ∧ (Instr.cpxImm 0xFF).shape = .read .cpx (.imm 0xFF) ∧
    (Instr.cpyZp 1).shape = .read .cpy (.mem (.zp 1)) := by decide

theorem witness_MemoryIncrementDecrement :
    (Instr.incZp 1).shape = .rmw .inc (.zp 1) ∧ (Instr.decAbsX 0x2000).shape = .rmw .dec (.absX 0x2000) := by decide

theorem witness_MemoryShiftsRotate :
    (Instr.aslZp 1).shape = .rmw .asl (.zp 1) ∧ (Instr.lsrZpX 1).shape = .rmw .lsr (.zpX 1) ∧
    (Instr.rolAbs 1).shape = .rmw .rol (.abs 1) ∧ (Instr.rorAbsX 1).shape = .rmw .ror (.absX 1) := by decide

theorem witness_NopsOnlyRead :
    (Instr.nop1A).shape = .implied .nop ∧ (Instr.nopFCAbsX 0xFFFF).shape = .read .nop (.mem (.absX 0xFFFF)) ∧
    State.reset.bus.params.platform = .nes := by decide

theorem witness_ShiftThenLogic :
    (Instr.sloIndX 1).shape = .rmw .slo (.indX 1) ∧ (Instr.rlaAbsY 1).shape = .rmw .rla (.absY 1) ∧
    (Instr.sreZp 1).shape = .rmw .sre (.zp 1) := by decide

theorem witness_RmwThenArithmetic :
    (Instr.rraIndX 1).shape = .rmw .rra (.indX 1) ∧ (Instr.dcpIndY 1).shape = .rmw .dcp (.indY 1) ∧
    (Instr.isbZpX 1).shape = .rmw .isb (.zpX 1) := by decide

theorem witness_OperandsReadAndFrame :
    let s := startNesWith [] (fun s => { s with x := 0x01 })
    let a := (resolve .rmw (.absX 0xFFFF) s).1
    (resolve .read (.absX 0xFFFF) s).2.storage (resolve .read (.absX 0xFFFF) s).1 = some 0x00 ∧
    (resolve .rmw (.absX 0xFFFF) s).2.storage a = some 0x00 ∧ s.bus.still a = true ∧ s.bus.sameCell 0x0800 a = true ∧
    s.bus.writable a = true := by decide +kernel

theorem witness_StepReturnsDocumentedCycles :
    let s := startWith [0xBD, 0xFF, 0x12] [] (fun s => { s with x := 0x01 })
    let f := s.takeInputs.fetchInstr
    s.fatal = none ∧ s.takeInputs.poll = .instruction ∧ exec f.1 f.2 = .next (f.1.shape.run f.2) ∧
    (f.1.shape.run f.2).bus.dma = {} ∧ f.1.wellFormed = true :=
  ⟨by decide +kernel, by decide +kernel, exec_eq_run _ _, by decide +kernel, by decide +kernel⟩

theorem witness_DecoderIsTotalAndInverse : decode [0x6C, 0xFF, 0x10, 0xEA] = .instr (.jmpInd 0x10FF) [0xEA] := by decide +kernel

theorem witness_RegisterWriters :
    (opLda (.imm 1) State.reset).a ≠ State.reset.a ∧ (opLdx (.imm 1) State.reset).x ≠ State.reset.x ∧
    (opLdy (.imm 1) State.reset).y ≠ State.reset.y ∧ (opPha State.reset).sp ≠ State.reset.sp := by decide +kernel

theorem witness_FlagWriters :
    (opSec State.reset).flags.c ≠ State.reset.flags.c ∧ (opLda (.imm 0) State.reset).flags.z ≠ State.reset.flags.z ∧
    (opCli State.reset).flags.i ≠ State.reset.flags.i ∧ (opSed State.reset).flags.d ≠ State.reset.flags.d ∧
    (opBit (.imm 0x40) State.reset).flags.v ≠ State.reset.flags.v ∧
    (opBit (.imm 0x80) State.reset).flags.n ≠ State.reset.flags.n := by decide +kernel

theorem witness_RamMirrorsHoldLastWrite :
    (0x1FFF : Addr).toNat < 0x2000 ∧ (0x0000 : Addr).toNat < 0x2000 ∧
    (0x1FFF : Addr).toNat % 2048 = (0x07FF : Addr).toNat % 2048 ∧ State.reset.bus.params.platform = .nes ∧
    State.reset.bus.cart.quiet = true ∧ (start [] []).bus.params.platform = .flat := by decide

theorem witness_OpenBusAndIgnoredWrites :
    let b := (startNes [0xEA]).bus
    b.params.platform = .nes ∧ (0x4018 ≤ (0x4018 : Addr).toNat ∧ (0x401F : Addr).toNat < 0x4020) ∧
    (0x4020 ≤ (0x4020 : Addr).toNat ∧ b.storage 0x4020 = none) ∧ (0x4000 ≤ (0x4000 : Addr).toNat ∧ (0x4014 : Addr).toNat < 0x4015) ∧
    (0x2000 ≤ (0x2000 : Addr).toNat ∧ (0x3FFE : Addr).toNat < 0x4000 ∧ ((0x3FFE : Addr).toNat % 8) ∈ [0, 1, 3, 5, 6]) ∧
    b.params.writeOnlyRead = .openBus ∧ ({ writeOnlyRead := .fixed 0x77 } : Params).writeOnlyRead = .fixed 0x77 ∧
    b.storage 0x8000 = some 0xEA ∧ b.cart.target 0x8000 = some (.rom 0) ∧ 0x4020 ≤ (0xFFFF : Addr).toNat ∧
    b.cart.selects 0xFFFF = false := by decide +kernel

theorem witness_IrqTakenAtBoundary :
    let s := startWith [] [] (fun s => { s with bus := { s.bus with cart := { s.bus.cart with map := { irq := true } } } })
    exec .cli s = .next (opCli s) ∧ (opCli s).resetPending = false ∧ (opCli s).bus.nmiPending = false ∧
    (opCli s).bus.irqLine = true ∧ exec .sei s = .next (opSei s) := by
  refine ⟨rfl, by decide +kernel, by decide +kernel, by decide +kernel, rfl⟩

/-- The buses of an OAM DMA, as the statement's `c`. -/
def oamBuses (b : Bus) (page : Byte) : Nat → Bus
  | 0 => Bus.idle (if b.cycles % 2 = 0 then b.params.oamAlignEven else b.params.oamAlignOdd) b
  | n + 1 =>
    let c := oamBuses b page n
    (c.read (concat page (BitVec.ofNat 8 n))).2.write 0x2004 (c.read (concat page (BitVec.ofNat 8 n))).1

theorem witness_OamDmaCopiesPage :
    let b := State.reset.bus
    b.params.platform = .nes ∧ b.params = {} ∧ b.cart.quiet = true ∧
    oamBuses b 0x40 0 = Bus.idle (if b.cycles % 2 = 0 then b.params.oamAlignEven else b.params.oamAlignOdd) b ∧
    (∀ n, oamBuses b 0x40 (n + 1) = ((oamBuses b 0x40 n).read (concat 0x40 (BitVec.ofNat 8 n))).2.write 0x2004
      ((oamBuses b 0x40 n).read (concat 0x40 (BitVec.ofNat 8 n))).1) ∧
    (∀ i : Byte, b.storage (concat 0x02 i) = some 0x00 ∧ b.still (concat 0x02 i) = true) :=
  ⟨rfl, rfl, rfl, rfl, fun _ => rfl, by decide +kernel⟩

/-- A machine at a NOP, with requests as they are left by the DMC and by the instruction. -/
def requested (d : DmaRequest) : State := startNesWith [0xEA] (fun s => { s with bus := { s.bus with dma := d } })

theorem witness_DmaRequestsAreServiced :
    let s := requested { oam := some 0x02, dmc := some 0x8000 }
    s.bus.params.platform = .nes ∧ s.bus.params = {} ∧ s.bus.dma = { oam := some 0x02, dmc := some 0x8000 } ∧
    s.bus.storage 0x8000 = some 0xEA ∧ s.bus.still 0x8000 = true ∧ (resolve .rmw (.abs 0x4014) s).1 = 0x4014 ∧
    (resolve .rmw (.absX 0x4000) { s with x := 0x14 }).1 = 0x4014 := by decide +kernel

/-- Each of the four requests a step's instruction can leave. -/
theorem witness_DmaRequestsAreServiced_step :
    ∀ d ∈ [{ oam := some 0x02, dmc := some 0x8000 }, { oam := some 0x02, dmc := none }, { oam := none, dmc := some 0x8000 },
        ({} : DmaRequest)],
      (requested d).fatal = none ∧ (requested d).takeInputs.poll = .instruction ∧
      runsTo (requested d) (fun w => w.fatal.isNone && decide (w.bus.dma = d)) = true := by decide +kernel

theorem witness_PpuStatusAndWriteLatch :
    State.reset.bus.params.platform = .nes ∧
    ([0x2000, 0x3FF8, 0x2001, 0x3FF9, 0x2002, 0x3FFA, 0x2003, 0x3FFB, 0x2005, 0x3FFD, 0x2006, 0x3FFE, 0x2007, 0x3FFF] : List Addr).all
      (fun a => decide (0x2000 ≤ a.toNat ∧ a.toNat < 0x4000)) = true ∧
    ([0x2000, 0x3FF8, 0x2001, 0x3FF9, 0x2002, 0x3FFA, 0x2003, 0x3FFB, 0x2005, 0x3FFD, 0x2006, 0x3FFE, 0x2007, 0x3FFF] : List Addr).map
      (fun a => a.toNat % 8) = [0, 0, 1, 1, 2, 2, 3, 3, 5, 5, 6, 6, 7, 7] := by decide

/-- The start of the frame after one with a deferred write of PPUMASK, which is then in force (R452): by hand. -/
theorem test_R452_deferred_write_in_force_at_frame_start :
    let p : Ppu := ({ scanline := 261, dot := 340, mask := { written := 0x18, inForce := 0x06, held := true } } : Ppu)
    p.rendering = false ∧ (p.advance.scanline, p.advance.dot) = (0, 0) ∧
    p.advance.mask = { written := 0x18, inForce := 0x18, held := false } ∧ p.advance.rendering = true := by decide

theorem witness_PpuFrameTiming :
    let p : Ppu := { oddFrame := true, mask := { written := 0x08, inForce := 0x08 } }
    let q : Ppu := {}
    (p.scanline = 0 ∧ p.dot = 0 ∧ p.vblank = false) ∧ (q.scanline = 0 ∧ q.dot = 0 ∧ q.vblank = false) ∧
    (p.oddFrame = true ∧ (p.mask.inForce.getLsbD 3 = true ∨ p.mask.inForce.getLsbD 4 = true)) ∧ q.oddFrame = false ∧
    p.holds = false ∧ q.holds = false ∧
    89340 < 89341 ∧ 89341 < 89342 ∧ 89340 / 341 = 261 ∧ 89340 % 341 = 339 ∧ 89341 / 341 = 261 ∧ 89341 % 341 = 340 := by decide

/-- The two ends of a frame: an odd frame with rendering enabled leaves dot 339 of scanline 261 for (0, 0), any other passes
through dot 340 (R451). -/
theorem test_R451_frame_ends :
    let m : Latched Byte := { written := 0x08, inForce := 0x08 }
    let p : Ppu := ({ scanline := 261, dot := 339, oddFrame := true, mask := m } : Ppu).advance
    let q : Ppu := ({ scanline := 261, dot := 339, mask := m } : Ppu).advance
    (p.scanline, p.dot, p.oddFrame) = (0, 0, false) ∧ (q.scanline, q.dot, q.oddFrame) = (261, 340, false) ∧
    (q.advance.scanline, q.advance.dot, q.advance.oddFrame) = (0, 0, true) := by decide

theorem witness_ControllersShiftOutSnapshot :
    State.reset.bus.params.platform = .nes ∧ (0x01 : Byte).getLsbD 0 = true ∧ (0x00 : Byte).getLsbD 0 = false ∧ 7 < 8 := by decide

/-- Each sequence of buses the second clause of that statement speaks of exists. -/
theorem witness_ControllersShiftOutSnapshot_runs (start : Bus) (f : Bus → Nat → Bus) :
    ∃ c : Nat → Bus, c 0 = start ∧ ∀ n, c (n + 1) = f (c n) n :=
  ⟨fun n => Nat.rec start (fun n b => f b n) n, rfl, fun _ => rfl⟩

theorem witness_NmiEdgeIsLatchedEachCycle : State.reset.bus.params.platform = .nes := by decide

theorem witness_IrqSourcesRaiseAndClear :
    State.reset.bus.params.platform = .nes ∧ State.reset.bus.cart.quiet = true ∧ State.reset.pc ≠ 0x4015 ∧
    (startNesWith [] (fun s => { s with pc := 0x4015 })).pc = 0x4015 := by decide +kernel

theorem witness_MapperTranslatesAndObserves :
    let b := banks.bus
    let r : BankRegister := { first := 0xC000, last := 0xFFFF, window := 0, size := 4, count := 2 }
    let w : PrgWindow := { first := 0x8000, last := 0x8003, ram := false, offset := 0 }
    let gap : PrgWindow := { first := 0x8004, last := 0x8005, ram := true, offset := 0 }
    b.params.platform = .nes ∧ 0x4020 ≤ (0x4020 : Addr).toNat ∧ 0x4020 ≤ (0xFFFF : Addr).toNat ∧
    (∀ x ∈ [gap], ¬ (x.first ≤ (0x8003 : Addr).toNat ∧ (0x8003 : Addr).toNat ≤ x.last)) ∧
    b.cart.mapper = .banked ([] ++ r :: []) ∧ (∀ q ∈ ([] ++ [] : List BankRegister), ¬ (q.first ≤ (0xC000 : Addr).toNat ∧ (0xC000 : Addr).toNat ≤ q.last)) ∧
    r.first ≤ (0xC000 : Addr).toNat ∧ (0xFFFF : Addr).toNat ≤ r.last ∧ b.cart.map.windows = [] ++ w :: [] ∧
    ([] : List PrgWindow).length = r.window ∧ w.ram = false ∧ w.first ≤ (0x8000 : Addr).toNat ∧ (0x8003 : Addr).toNat ≤ w.last ∧
    (0xFF : Byte).toNat % r.count * r.size + ((0x8003 : Addr).toNat - w.first) < b.cart.info.romSize ∧
    State.reset.bus.cart.mapper = .fixed ∧ ({ mapper := .variant } : Cartridge).mapper = .variant := by decide
end Sys2Proof.Tests
end

section
/-! SUPPORT. The poll, the step of each boundary, and what keeps a machine running: the lemmas behind the statements of 00_scope.md. -/

namespace Sys2Proof.Machine

/-! ### The poll and the step (40_addressing_modes.md R180) -/

theorem State.poll_reset {s : State} (hr : s.resetPending = true) : s.poll = .reset := by
  simp [State.poll, hr]

theorem State.poll_nmi {s : State} (hr : s.resetPending = false) (hn : s.bus.nmiPending = true) : s.poll = .nmi := by
  simp [State.poll, hr, hn]

theorem State.poll_irq {s : State} (hr : s.resetPending = false) (hn : s.bus.nmiPending = false)
    (hl : s.bus.irqLine = true) (hi : s.flags.i = false) : s.poll = .irq := by
  simp [State.poll, hr, hn, hl, hi]

theorem State.poll_instruction {s : State} (hr : s.resetPending = false) (hn : s.bus.nmiPending = false)
    (h : s.bus.irqLine = false ∨ s.flags.i = true) : s.poll = .instruction := by
  rcases h with h | h <;> simp [State.poll, hr, hn, h]

section
variable {s : State} (hf : s.fatal = none)
include hf

theorem step_of_poll_reset (hp : s.takeInputs.poll = .reset) : step s = .next s.takeInputs.resetSequence.serviceDma := by
  simp only [step, hf, hp]

theorem step_of_poll_nmi (hp : s.takeInputs.poll = .nmi) :
    step s = .next (s.takeInputs.interruptEntry .nmi).serviceDma := by
  simp only [step, hf, hp]

theorem step_of_poll_irq (hp : s.takeInputs.poll = .irq) :
    step s = .next (s.takeInputs.interruptEntry .irq).serviceDma := by
  simp only [step, hf, hp]

theorem step_of_poll_instruction (hp : s.takeInputs.poll = .instruction) :
    step s = finishInstr (exec s.takeInputs.fetchInstr.1 s.takeInputs.fetchInstr.2) := by
  simp only [step, hf, hp]

end

/-- The end of a step whose instruction answers a next state: the DMA, unless it was IllegalOpcode (R420). -/
theorem finishInstr_next (w : State) : finishInstr (.next w) = .next (if w.fatal.isSome then w else w.serviceDma) := by
  simp only [finishInstr]
  split <;> rfl

/-! ### What makes a machine fatal (60_exceptions.md R420) -/

@[simp] theorem State.serviceDma_fatal (s : State) : s.serviceDma.fatal = s.fatal := rfl

@[simp] theorem State.resetSequence_fatal (s : State) : s.resetSequence.fatal = s.fatal := by
  simp [State.resetSequence]

@[simp] theorem State.interruptEntry_fatal (s : State) (k : Entry) : (s.interruptEntry k).fatal = s.fatal := by
  simp [State.interruptEntry, State.takeException_eq]

/-- An instruction that is not a refused row leaves a running machine running. -/
theorem Instr.run_fatal_of_wellFormed {i : Instr} (hw : i.wellFormed = true) (s : State) :
    (i.shape.run s).fatal = s.fatal := by
  refine (shape_run_frame i.shape s).2.2 (fun op h => ?_)
  obtain ⟨hop, hmem⟩ := Instr.shape_refused h
  rw [← hop] at hmem
  simp [Instr.wellFormed, admitted, hmem] at hw

/-- An instruction that makes a running machine fatal records a refused opcode. -/
theorem Instr.run_fatal_refused {i : Instr} {s : State} {e : IllegalOpcode} (hs : s.fatal = none)
    (h : (i.shape.run s).fatal = some e) : e.op ∈ refusedOpcodes := by
  by_cases hr : ∃ op, i.shape = .refused op
  · obtain ⟨op, hop⟩ := hr
    rw [hop, Shape.run, State.raiseIllegal_fatal, Option.some.injEq] at h
    subst h
    exact (Instr.shape_refused hop).2
  · rw [(shape_run_frame i.shape s).2.2 (fun op hop => hr ⟨op, hop⟩), hs] at h
    cases h

/-! ### The invariant of the machine -/

/-- A running machine whose DMA has just been serviced meets the invariant if its bus did. -/
theorem State.Inv.serviceDma {s : State} (hb : s.bus.Inv) (hf : s.fatal = none) : s.serviceDma.Inv where
  bus := State.serviceDma_inv hb
  dma := fun _ => s.serviceDma_dma
  fatal := fun e he => by rw [State.serviceDma_fatal, hf] at he; cases he

/-- A machine that has become fatal meets the invariant if its bus does and the opcode is a refused one. -/
theorem State.Inv.of_fatal {s : State} (hb : s.bus.Inv) (hf : s.fatal.isSome = true)
    (hop : ∀ e, s.fatal = some e → e.op ∈ refusedOpcodes) : s.Inv where
  bus := hb
  dma := fun hn => by rw [hn] at hf; cases hf
  fatal := hop

/-! ### Cycles (40_addressing_modes.md R194, R195) -/

/-- The fetch and the cycles that do not vary are the base count: the whole column of the opcode table. -/
theorem Instr.fetchCycles_add_shapeFixed (i : Instr) : fetchCycles i + shapeFixed i.shape = baseCycles i := by
  cases i <;> simp only [fetchCycles, baseCycles, Instr.length, Instr.opcode, Instr.shape, Shape.bytes, Operand.bytes,
    EaMode.bytes, shapeFixed, modeFixed] <;> rfl

/-- Only the Read class pays for a page cross by the address. -/
theorem modeCycles_eq (cls : AccessClass) (e : EaMode) (s : State) :
    modeCycles cls e s = modeFixed cls e + if cls = .read then operandCrossCycle (.mem e) s else 0 := by
  cases e <;> simp only [modeCycles, modeFixed, operandCrossCycle] <;> split <;> omega

/-- What varies in the cycles of a row is its extra cycles. -/
theorem Instr.shapeCycles_eq (i : Instr) (s : State) : shapeCycles i.shape s = shapeFixed i.shape + extraCycles i s := by
  unfold extraCycles
  cases i.shape with
  | read op o =>
    cases o with
    | imm m => rfl
    | mem e => simp only [shapeCycles, shapeFixed, modeCycles_eq, if_true]; omega
  | write op e => simp [shapeCycles, shapeFixed, modeCycles_eq]
  | rmw op e => simp [shapeCycles, shapeFixed, modeCycles_eq]
  | branch op d => simp only [shapeCycles, shapeFixed, Nat.zero_add]
  | _ => rfl

/-- An instruction, with its fetch, takes its base count and its extra cycles. -/
theorem Instr.run_cycles (i : Instr) (s : State) :
    (i.shape.run s).bus.cycles + fetchCycles i = s.bus.cycles + baseCycles i + extraCycles i s := by
  rw [shape_run_cycles, Instr.shapeCycles_eq, ← Instr.fetchCycles_add_shapeFixed]
  omega

theorem State.foldl_applyEvent_cycles (g : List PlatformEvent) (s : State) :
    (g.foldl State.applyEvent s).bus.cycles = s.bus.cycles := by
  induction g generalizing s with
  | nil => rfl
  | cons e g ih =>
    obtain ⟨-, -, -, -, -, -, -, -, hc, -⟩ := State.applyEvent_cpu s e
    exact (ih _).trans hc

/-- Inputs take no time (log 5). -/
theorem State.takeInputs_cycles (s : State) : s.takeInputs.bus.cycles = s.bus.cycles := by
  unfold State.takeInputs
  split
  · rfl
  · exact State.foldl_applyEvent_cycles _ _

/-- `step()` of a machine that is running afterwards returns the cycles that passed (00_scope.md R22). -/
theorem stepReturn_cycles {s t : State} {n : Nat} (h : step s = .next t) (hf : t.fatal = none)
    (hc : t.bus.cycles = s.bus.cycles + n) : stepReturn s = some (.cycles n) := by
  simp only [stepReturn, h, hf, hc, Nat.add_sub_cancel_left]

end Sys2Proof.Machine
end

section
/-! PROOFS. The statements of the family 00_scope.md. -/

namespace Sys2Proof.Proofs.Scope

open Sys2Proof Sys2Proof.Machine

/-- Settles O3: by the cases of `step_cases`, each a chain of operations that keep the bus's invariant; what ends with the DMA
leaves no request, and what ends without it is a refused row. -/
theorem stepKeepsInvariant : Obligations.StepKeepsInvariant := by
  unfold Obligations.StepKeepsInvariant
  intro s t hs hstep
  obtain ⟨hf, hcases⟩ := step_cases hstep
  have hb : s.takeInputs.bus.Inv := State.takeInputs_inv hs.bus
  have hu : s.takeInputs.fatal = none := (State.takeInputs_fatal s).trans hf
  have hfetch : s.takeInputs.fetchInstr.2.fatal = none := (State.fetchInstr_cycles s.takeInputs).2.trans hu
  have hrun := shape_run_inv s.takeInputs.fetchInstr.1.shape (State.fetchInstr_inv hb)
  rcases hcases with ⟨-, rfl⟩ | ⟨-, rfl⟩ | ⟨-, rfl⟩ | ⟨-, hfatal, rfl⟩ | ⟨-, hrunning, rfl⟩
  · exact .serviceDma (State.resetSequence_inv hb) (by simpa using hu)
  · exact .serviceDma (State.interruptEntry_inv hb _) (by simpa using hu)
  · exact .serviceDma (State.interruptEntry_inv hb _) (by simpa using hu)
  · exact .of_fatal hrun hfatal (fun e he => Instr.run_fatal_refused hfetch he)
  · exact .serviceDma hrun (by simpa using hrunning)

/-- Settles O43: an admitted row leaves the machine running, no request means no DMA, and the cycles are those of the fetch and of
the row's shape. -/
theorem stepReturnsDocumentedCycles : Obligations.StepReturnsDocumentedCycles := by
  unfold Obligations.StepReturnsDocumentedCycles
  intro s w hf hp hexec hdma hw
  obtain ⟨hfetch, hfetchFatal⟩ := State.fetchInstr_cycles s.takeInputs
  have hinputs := State.takeInputs_cycles s
  have hwEq : s.takeInputs.fetchInstr.1.shape.run s.takeInputs.fetchInstr.2 = w := by
    simpa [exec_eq_run] using hexec
  have hrunning : w.fatal = none := by
    rw [← hwEq, Instr.run_fatal_of_wellFormed hw, hfetchFatal, State.takeInputs_fatal, hf]
  have hstep : step s = .next w := by
    rw [step_of_poll_instruction hf hp, hexec, finishInstr_next, State.serviceDma_none hdma, ite_self]
  have hrun := Instr.run_cycles s.takeInputs.fetchInstr.1 s.takeInputs.fetchInstr.2
  rw [hwEq] at hrun
  exact stepReturn_cycles hstep hrunning (by omega)

/-- Settles O4: what is pending decides the poll, and the poll decides the step. -/
theorem stepTakesOneSequence : Obligations.StepTakesOneSequence := by
  unfold Obligations.StepTakesOneSequence
  intro s hf u
  refine ⟨fun hr => ?reset, fun hr hn => ?nmi, fun hr hn hl hi => ?irq, fun hr hn hq => ?instruction⟩
  case reset => exact step_of_poll_reset hf (State.poll_reset hr)
  case nmi => exact step_of_poll_nmi hf (State.poll_nmi hr hn)
  case irq => exact step_of_poll_irq hf (State.poll_irq hr hn hl hi)
  case instruction =>
    have hstep := step_of_poll_instruction hf (State.poll_instruction hr hn hq)
    exact ⟨hstep, fun w hw => by rw [hstep, hw, finishInstr_next]⟩

end Sys2Proof.Proofs.Scope
end

section
/-! SUPPORT. Writers of the registers and flags, the stack's pulls and pushes, and the DMA units: the lemmas behind the statements
of 10_state.md. -/

namespace Sys2Proof

open Machine

/-! ### Who writes a register (10_state.md R32 to R34), class by class -/

theorem ReadOp.run_registers (op : ReadOp) (o : Operand) (s : State) :
    ((op.run o s).a ≠ s.a → op ∈ [.lda, .adc, .sbc, .and, .ora, .eor, .lax]) ∧
    ((op.run o s).x ≠ s.x → op ∈ [.ldx, .lax]) ∧ ((op.run o s).y ≠ s.y → op = .ldy) ∧ (op.run o s).sp = s.sp := by
  cases op <;> simp [ReadOp.run, opLda, opLdx, opLdy, opLax, opAdc, opSbc, opAnd, opOra, opEor, opBit, opCmp, opCpx, opCpy, opNop]

/-- A store changes the bus only. -/
theorem WriteOp.run_registers (op : WriteOp) (e : EaMode) (s : State) :
    (op.run e s).a = s.a ∧ (op.run e s).x = s.x ∧ (op.run e s).y = s.y ∧ (op.run e s).sp = s.sp ∧
    (op.run e s).flags = s.flags := by
  cases op <;> exact ⟨rfl, rfl, rfl, rfl, rfl⟩

theorem RmwOp.run_registers (op : RmwOp) (e : EaMode) (s : State) :
    ((op.run e s).a ≠ s.a → op ∈ [.slo, .rla, .sre, .rra, .isb]) ∧
    (op.run e s).x = s.x ∧ (op.run e s).y = s.y ∧ (op.run e s).sp = s.sp := by
  cases op <;> simp [RmwOp.run, opAsl, opLsr, opRol, opRor, opInc, opDec, opSlo, opRla, opSre, opRra, opDcp, opIsb]

theorem AccOp.run_registers (op : AccOp) (s : State) :
    (op.run s).x = s.x ∧ (op.run s).y = s.y ∧ (op.run s).sp = s.sp := by
  cases op <;> exact ⟨rfl, rfl, rfl⟩

theorem ImpliedOp.run_registers (op : ImpliedOp) (s : State) :
    ((op.run s).a ≠ s.a → op ∈ [.txa, .tya]) ∧ ((op.run s).x ≠ s.x → op ∈ [.tax, .tsx, .inx, .dex]) ∧
    ((op.run s).y ≠ s.y → op ∈ [.tay, .iny, .dey]) ∧ ((op.run s).sp ≠ s.sp → op = .txs) := by
  cases op <;> simp [ImpliedOp.run, opTax, opTay, opTxa, opTya, opTsx, opTxs, opInx, opIny, opDex, opDey, opClc, opSec, opCli, opSei,
    opCld, opSed, opClv]

/-! ### Who writes a flag (10_state.md R37), class by class -/

theorem ReadOp.run_flags (op : ReadOp) (o : Operand) (s : State) :
    ((op.run o s).flags.c ≠ s.flags.c → op ∈ [.adc, .sbc, .cmp, .cpx, .cpy]) ∧
    ((op.run o s).flags.z ≠ s.flags.z → op ∈ [.lda, .ldx, .ldy, .lax, .adc, .sbc, .and, .ora, .eor, .bit, .cmp, .cpx, .cpy]) ∧
    (op.run o s).flags.i = s.flags.i ∧ (op.run o s).flags.d = s.flags.d ∧
    ((op.run o s).flags.v ≠ s.flags.v → op ∈ [.adc, .sbc, .bit]) ∧
    ((op.run o s).flags.n ≠ s.flags.n → op ∈ [.lda, .ldx, .ldy, .lax, .adc, .sbc, .and, .ora, .eor, .bit, .cmp, .cpx, .cpy]) := by
  cases op <;> simp [ReadOp.run, opLda, opLdx, opLdy, opLax, opAdc, opSbc, opAnd, opOra, opEor, opBit, opCmp, opCpx, opCpy, opNop,
    Flags.setNZ, Machine.adc, Machine.sbc, bitTest, compareFlags]

theorem RmwOp.run_flags (op : RmwOp) (e : EaMode) (s : State) :
    ((op.run e s).flags.c ≠ s.flags.c → op ∈ [.asl, .lsr, .rol, .ror, .slo, .rla, .sre, .rra, .dcp, .isb]) ∧
    (op.run e s).flags.i = s.flags.i ∧ (op.run e s).flags.d = s.flags.d ∧
    ((op.run e s).flags.v ≠ s.flags.v → op ∈ [.rra, .isb]) := by
  cases op <;> simp [RmwOp.run, opAsl, opLsr, opRol, opRor, opInc, opDec, opSlo, opRla, opSre, opRra, opDcp, opIsb, modifyOperand_eq,
    Flags.setNZ, shiftLeft, shiftRight, rotateLeft, rotateRight, increment, decrement, adc, sbc, compareFlags]

theorem AccOp.run_flags (op : AccOp) (s : State) :
    (op.run s).flags.i = s.flags.i ∧ (op.run s).flags.d = s.flags.d ∧ (op.run s).flags.v = s.flags.v := by
  cases op <;> exact ⟨rfl, rfl, rfl⟩

theorem ImpliedOp.run_flags (op : ImpliedOp) (s : State) :
    ((op.run s).flags.c ≠ s.flags.c → op ∈ [.clc, .sec]) ∧
    ((op.run s).flags.z ≠ s.flags.z → op ∈ [.tax, .tay, .txa, .tya, .tsx, .inx, .iny, .dex, .dey]) ∧
    ((op.run s).flags.i ≠ s.flags.i → op ∈ [.cli, .sei]) ∧ ((op.run s).flags.d ≠ s.flags.d → op ∈ [.cld, .sed]) ∧
    ((op.run s).flags.v ≠ s.flags.v → op = .clv) ∧
    ((op.run s).flags.n ≠ s.flags.n → op ∈ [.tax, .tay, .txa, .tya, .tsx, .inx, .iny, .dex, .dey]) := by
  cases op <;> simp [ImpliedOp.run, opTax, opTay, opTxa, opTya, opTsx, opTxs, opInx, opIny, opDex, opDey, opClc, opSec, opCli, opSei,
    opCld, opSed, opClv, Flags.setNZ]

namespace Machine

/-- A branch changes PC and the bus only (45_control_transfer.md R320). -/
theorem branch_registers (cond : Bool) (d : Byte) (s : State) :
    (branch cond d s).a = s.a ∧ (branch cond d s).x = s.x ∧ (branch cond d s).y = s.y ∧ (branch cond d s).sp = s.sp ∧
    (branch cond d s).flags = s.flags := by
  simp only [branch]
  split
  · split <;> exact ⟨rfl, rfl, rfl, rfl, rfl⟩
  · exact ⟨rfl, rfl, rfl, rfl, rfl⟩

/-! ### The stack (10_state.md R34, 60_exceptions.md R435, R436) -/

theorem byte_add_one_one (x : Byte) : x + 1 + 1 = x + 2 := BitVec.add_assoc x 1 1

theorem byte_add_two_one (x : Byte) : x + 2 + 1 = x + 3 := BitVec.add_assoc x 2 1

theorem byte_sub_one_one (x : Byte) : x - 1 - 1 = x - 2 := BitVec.sub_sub x 1 1

/-- An address names a stack slot if and only if it is RAM of that cell. -/
theorem Bus.sameCell_stackAddr_iff {b : Bus} {a : Addr} {j : Byte} :
    b.sameCell a (stackAddr j) = true ↔ b.region a = .ram ∧ b.cell a = 256 + j.toNat := by
  simp only [Bus.sameCell_eq_true, Bus.region_stackAddr, Bus.cell_stackAddr]
  constructor
  · rintro (rfl | ⟨hr, -, hc⟩ | ⟨-, h, -⟩)
    · exact ⟨Bus.region_stackAddr b j, Bus.cell_stackAddr b j⟩
    · exact ⟨hr, hc⟩
    · cases h
  · exact fun ⟨hr, hc⟩ => .inr (.inl ⟨hr, trivial, hc⟩)

/-- The byte of a stack slot. -/
theorem Bus.storage_stackAddr (b : Bus) (j : Byte) :
    b.storage (stackAddr j) = some (Memory.byte b.mem (256 + j.toNat)) := by
  rw [Bus.storage_ram (by simp), Bus.cell_stackAddr]

/-- The bus after a return address is pushed (45_control_transfer.md R332). -/
def pushedReturn (b : Bus) (sp : Byte) (pc : Addr) : Bus :=
  (b.write (stackAddr sp) (hi pc)).write (stackAddr (sp - 1)) (lo pc)

theorem pushedReturn_storesOnly (b : Bus) (sp : Byte) (pc : Addr) :
    b.StoresOnly [stackAddr sp, stackAddr (sp - 1)] (pushedReturn b sp pc) :=
  ((Bus.write_storesOnly _ _ _).mono (by simp)).trans ((Bus.write_storesOnly _ _ _).mono (by simp))

/-- Every address that names one of the two slots reads as the byte pushed there. -/
theorem pushedReturn_storage (b : Bus) (sp : Byte) (pc a : Addr) :
    (b.sameCell a (stackAddr sp) = true → (pushedReturn b sp pc).storage a = some (hi pc)) ∧
    (b.sameCell a (stackAddr (sp - 1)) = true → (pushedReturn b sp pc).storage a = some (lo pc)) := by
  have hw := b.write_storesOnly (stackAddr sp) (hi pc)
  refine ⟨fun h => ?_, fun h => ?_⟩
  · obtain ⟨hr, hc⟩ := Bus.sameCell_stackAddr_iff.mp h
    have hother : (b.write (stackAddr sp) (hi pc)).sameCell a (stackAddr (sp - 1)) = false := by
      rw [Bus.sameCell_ram_congr hw.params hr, ← Bool.not_eq_true, Bus.sameCell_stackAddr_iff, hc]
      rintro ⟨-, e⟩
      exact (slots_ne sp).1 (BitVec.eq_of_toNat_eq (Nat.add_left_cancel e))
    rw [pushedReturn, Bus.write_storage_other _ hother (.inl ((Bus.region_congr hw.params a).trans hr))]
    exact Bus.write_storage_same _ (Bus.writable_stackAddr _ _) h
  · exact Bus.write_storage_same _ (Bus.writable_stackAddr _ _)
      ((Bus.sameCell_of_ram hw.params (Bus.region_stackAddr b _) a).trans h)

/-- JSR, whole (45_control_transfer.md R332). -/
theorem opJsr_eq (a : Addr) (s : State) :
    opJsr a s = { s with
      bus := ((pushedReturn (s.bus.dummyRead (stackAddr s.sp)) s.sp s.pc).read s.pc).2
      sp := s.sp - 2
      pc := concat ((pushedReturn (s.bus.dummyRead (stackAddr s.sp)) s.sp s.pc).read s.pc).1 (lo a) } := by
  simp only [opJsr, State.push, State.dummyRead, pushedReturn, byte_sub_one_one]

/-- RTS, whole (45_control_transfer.md R333). -/
theorem opRts_spec (s : State) : ∃ b : Bus, s.bus.Keeps b ∧ b.cycles = s.bus.cycles + 5 ∧
    opRts s = { s with
      bus := b
      sp := s.sp + 2
      pc := concat (Memory.byte s.bus.mem (256 + (s.sp + 2).toNat)) (Memory.byte s.bus.mem (256 + (s.sp + 1).toNat)) + 1 } :=
  ⟨(opRts s).bus, shape_run_keeps .rts s nofun nofun nofun nofun nofun nofun, shape_run_cycles .rts s, by
    simp only [opRts, State.dummyFetch, State.dummyRead, State.raiseSp, State.popByte, State.readTop, Bus.read_stack, Bus.read_mem,
      Bus.dummyRead_mem, byte_add_one_one]⟩

/-- RTI, whole (46_flags_system.md R361). -/
theorem State.returnFromException_spec (s : State) : ∃ b : Bus, s.bus.Keeps b ∧ b.cycles = s.bus.cycles + 5 ∧
    s.dummyFetch.returnFromException = { s with
      bus := b
      sp := s.sp + 3
      flags := Flags.unpack (Memory.byte s.bus.mem (256 + (s.sp + 1).toNat))
      pc := concat (Memory.byte s.bus.mem (256 + (s.sp + 3).toNat)) (Memory.byte s.bus.mem (256 + (s.sp + 2).toNat)) } :=
  ⟨s.dummyFetch.returnFromException.bus, shape_run_keeps .rti s nofun nofun nofun nofun nofun nofun, shape_run_cycles .rti s, by
    simp only [State.returnFromException, State.dummyFetch, State.dummyRead, State.raiseSp, State.popByte, State.readTop,
      Bus.read_stack, Bus.read_mem, Bus.dummyRead_mem, byte_add_one_one, byte_add_two_one]⟩

/-- PLA, whole (42_stack.md R252). -/
theorem opPla_spec (s : State) : ∃ b : Bus, s.bus.Keeps b ∧ b.cycles = s.bus.cycles + 3 ∧
    opPla s = { s with
      bus := b
      sp := s.sp + 1
      a := Memory.byte s.bus.mem (256 + (s.sp + 1).toNat)
      flags := s.flags.setNZ (Memory.byte s.bus.mem (256 + (s.sp + 1).toNat)) } :=
  ⟨(opPla s).bus, shape_run_keeps .pla s nofun nofun nofun nofun nofun nofun, shape_run_cycles .pla s, by
    simp only [opPla, State.dummyFetch, State.dummyRead, State.raiseSp, State.readTop, Bus.read_stack, Bus.dummyRead_mem]⟩

/-- PLP, whole (42_stack.md R253). -/
theorem opPlp_spec (s : State) : ∃ b : Bus, s.bus.Keeps b ∧ b.cycles = s.bus.cycles + 3 ∧
    opPlp s = { s with
      bus := b
      sp := s.sp + 1
      flags := Flags.unpack (Memory.byte s.bus.mem (256 + (s.sp + 1).toNat)) } :=
  ⟨(opPlp s).bus, shape_run_keeps .plp s nofun nofun nofun nofun nofun nofun, shape_run_cycles .plp s, by
    simp only [opPlp, State.dummyFetch, State.dummyRead, State.raiseSp, State.readTop, Bus.read_stack, Bus.dummyRead_mem]⟩

/-! ### Entries (60_exceptions.md R433) -/

/-- Clearing a latched NMI, or leaving it, on both sides changes nothing else. -/
theorem Bus.Keeps.nmiMasked {b c : Bus} (h : b.Keeps c) (p : Bool) :
    ({ b with nmiPending := b.nmiPending && p } : Bus).Keeps { c with nmiPending := c.nmiPending && p } :=
  have hn : (b.nmiPending && p) = true → (c.nmiPending && p) = true := by
    simpa only [Bool.and_eq_true] using And.imp_left h.nmiPending
  { h with nmiPending := hn }

/-- BRK takes no NMI. -/
theorem Bus.nmiMasked_brk (b : Bus) : { b with nmiPending := b.nmiPending && Entry.brk != .nmi } = b := by
  simp only [show (Entry.brk != .nmi) = true from rfl, Bool.and_true]

/-- So BRK reads its vector from the bus it has pushed its frame on. -/
theorem entryBus_brk (s : State) : entryBus .brk s = pushedFrame s.bus s.sp s.pc (s.flags.pack true) := by
  simp only [entryBus, Entry.breakBit, Bus.nmiMasked_brk]

/-- The two discarded fetches that begin an entry (R433). -/
theorem State.dummyFetch2_keeps (s : State) : s.bus.Keeps s.dummyFetch.dummyFetch.bus :=
  (Bus.dummyRead_keeps _ _).trans (Bus.dummyRead_keeps _ _)

/-- What an entry leaves alone, and what it does to S and I. -/
theorem State.takeException_registers (k : Entry) (s : State) :
    (s.takeException k).a = s.a ∧ (s.takeException k).x = s.x ∧ (s.takeException k).y = s.y ∧
    (s.takeException k).sp = s.sp - 3 ∧ (s.takeException k).flags = { s.flags with i := true } ∧
    (s.takeException k).resetPending = s.resetPending ∧ (s.takeException k).fatal = s.fatal ∧
    (s.takeException k).inputs = s.inputs := by
  rw [State.takeException_eq]
  exact ⟨rfl, rfl, rfl, rfl, rfl, rfl, rfl, rfl⟩

/-- The handler's address, where the vector stayed as it was since an earlier bus. -/
theorem State.takeException_pc_of_still (k : Entry) {b : Bus} {s : State} (hk : b.Keeps s.bus) (hv : b.still k.vector = true) :
    (s.takeException k).pc =
      concat ((b.storage (k.vector + 1)).getD ((b.storage k.vector).getD (s.flags.pack k.breakBit)))
        ((b.storage k.vector).getD (s.flags.pack k.breakBit)) := by
  have hcart : 0x4020 ≤ k.vector.toNat := by cases k <;> decide
  have hstill := Bus.still_all hcart hv
  rw [State.takeException_pc k (fun a _ => (hk.still a).trans (hstill a)), hk.storage (hstill _), hk.storage (hstill _)]

/-- The frame an entry leaves on the stack, byte by byte (R435). -/
theorem State.takeException_frame (k : Entry) (s : State) :
    Memory.byte (s.takeException k).bus.mem (256 + s.sp.toNat) = hi s.pc ∧
    Memory.byte (s.takeException k).bus.mem (256 + (s.sp - 1).toNat) = lo s.pc ∧
    Memory.byte (s.takeException k).bus.mem (256 + (s.sp - 2).toNat) = s.flags.pack k.breakBit := by
  simpa only [Bus.storage_stackAddr, Option.some.injEq] using (s.takeException_spec k).1

/-! ### DMA (20_memory.md R95, R97) -/

/-- 0x4014 is write-only: a read of it leaves `open_bus` (R87). -/
theorem Bus.read_oamDmaRequest {b : Bus} (hp : b.params.platform = .nes) : (b.read 0x4014).1 = b.openBus := by
  have hr : b.region 0x4014 = .io := Bus.region_eq_io.mpr ⟨hp, by decide, by decide⟩
  have e : (0x4014 : Addr).toNat - 0x4000 = 0x14 := by decide
  simp only [Bus.read_fst, Bus.answer, hr, e, Bus.ioRead]

/-- An RMW access of 0x4014 reads open bus and leaves the page of its second write. -/
theorem rmwBus_oamDmaRequest {e : EaMode} {s : State} (r : Byte) (hp : s.bus.params.platform = .nes)
    (he : (resolve .rmw e s).1 = 0x4014) :
    rmwByte e s = (resolve .rmw e s).2.openBus ∧ (rmwBus e r s).dma = { s.bus.dma with oam := some r } := by
  have hk := resolve_keeps .rmw e s
  have hp' : (resolve .rmw e s).2.params.platform = .nes := by rw [hk.params, hp]
  refine ⟨by rw [rmwByte, he, Bus.read_oamDmaRequest hp'], ?_⟩
  rw [rmwBus, he, Bus.write_oamDmaRequest _ (by simpa using hp'), Bus.write_oamDmaRequest _ (by simpa using hp'),
    (Bus.read_keeps _ _).dma, hk.dma]

/-- The OAM DMA first, then the DMC fetch (R97). -/
theorem State.serviceDma_both {s : State} {page : Byte} {a : Addr} (h : s.bus.dma = { oam := some page, dmc := some a }) :
    s.serviceDma = { s with bus := (s.bus.oamDma page).dmcDma a } := by
  simp only [State.serviceDma, Bus.serviceOam, Bus.serviceDmc, h, Bus.oamDma_dma]

theorem State.serviceDma_oam {s : State} {page : Byte} (h : s.bus.dma = { oam := some page, dmc := none }) :
    s.serviceDma = { s with bus := s.bus.oamDma page } := by
  simp only [State.serviceDma, Bus.serviceOam, Bus.serviceDmc, h, Bus.oamDma_dma]

theorem State.serviceDma_dmc {s : State} {a : Addr} (h : s.bus.dma = { oam := none, dmc := some a }) :
    s.serviceDma = { s with bus := s.bus.dmcDma a } := by
  simp only [State.serviceDma, Bus.serviceOam, Bus.serviceDmc, h]

/-- What the DMC fetch does before it delivers its byte: reads and idle cycles (R97). -/
theorem Bus.dmcDma_keeps (b : Bus) (a : Addr) : b.Keeps ((Bus.idle b.params.dmcIdle b).read a).2 :=
  (Bus.idle_spec _ _).1.trans (Bus.read_keeps _ _)

/-- A DMC fetch ends its own request and leaves the OAM DMA's. -/
theorem Bus.dmcDma_dma (b : Bus) (a : Addr) : (b.dmcDma a).dma = { b.dma with dmc := none } := by
  simp only [Bus.dmcDma, (b.dmcDma_keeps a).dma]

theorem Bus.dmcDma_cycles (b : Bus) (a : Addr) : (b.dmcDma a).cycles = b.cycles + b.params.dmcIdle + 1 := by
  simp only [Bus.dmcDma, Bus.read_cycles, (Bus.idle_spec _ _).2]

end Machine
end Sys2Proof
end

section
/-! PROOFS. The statements of the family 10_state.md. -/

namespace Sys2Proof.Proofs.MachineState

open Sys2Proof Sys2Proof.Machine

/-! ### Power-on, the poll and the fetch -/

/-- Settles O1: the fields of `State.powerOn`, and RAM as the decoder reads it. -/
theorem resetStateIsPowerOnState : Obligations.ResetStateIsPowerOnState := by
  unfold Obligations.ResetStateIsPowerOnState
  refine ⟨fun p => ⟨rfl, rfl, rfl, rfl, rfl, rfl, fun a ha => ?_, rfl, rfl, rfl, rfl, rfl, rfl, rfl, rfl, rfl⟩,
    rfl, rfl, rfl, rfl, rfl, rfl, rfl, rfl⟩
  show (State.powerOn p).bus.storage a = _
  exact Bus.storage_ram ha

/-- Settles O6: the first branch of `step`. -/
theorem fatalMachineReturnsItsError : Obligations.FatalMachineReturnsItsError := by
  unfold Obligations.FatalMachineReturnsItsError
  intro s e h
  simp only [step, h]

/-- Settles O5: a fetch whose reads return an encoding gives the instruction, and the step runs it. -/
theorem stepRunsDecodedInstruction : Obligations.StepRunsDecodedInstruction := by
  unfold Obligations.StepRunsDecodedInstruction
  refine ⟨fun s i hf hp hreads => ?_, fun b a l h => Bus.readsAs_of_storage l h⟩
  obtain ⟨b, hkeeps, hcycles, hfetch⟩ := State.fetchInstr_of_reads s.takeInputs i hreads
  exact ⟨b, hkeeps, hcycles, by simp [fetchCycles, fetchesTargetLate], by rw [step_of_poll_instruction hf hp, hfetch]⟩

/-! ### The status byte -/

/-- Settles O21: `Pbyte` bit by bit, and the third byte of the frame of an entry. -/
theorem statusByteCopies : Obligations.StatusByteCopies := by
  unfold Obligations.StatusByteCopies
  refine ⟨fun f b => ?_, fun p => rfl, fun f r => rfl, rfl, rfl, rfl, fun s => ?_, fun sig s => rfl, fun s => rfl⟩
  · obtain ⟨c, z, i, d, v, n⟩ := f
    cases b <;> cases c <;> cases z <;> cases i <;> cases d <;> cases v <;> cases n <;> rfl
  · have hstatus : ∀ k, (s.takeException k).bus.storage (stackAddr (s.sp - 2)) = some (s.flags.pack k.breakBit) := by
      intro k
      obtain ⟨⟨-, -, hp⟩, -⟩ := s.takeException_spec k
      exact hp
    exact ⟨hstatus .brk, hstatus .irq, hstatus .nmi⟩

/-! ### Every instruction -/

/-- Settles O8: every row runs its shape, whose frame `shape_run_frame`, `shape_run_nmi` and `shape_run_keeps` give. -/
theorem everyInstructionCompletes : Obligations.EveryInstructionCompletes := by
  unfold Obligations.EveryInstructionCompletes
  intro i s
  obtain ⟨hinputs, hreset, -⟩ := shape_run_frame i.shape s
  exact ⟨i.shape.run s, exec_eq_run i s, hinputs, hreset, fun hw => Instr.run_fatal_of_wellFormed hw s,
    shape_run_nmi i.shape s, shape_run_keeps i.shape s⟩

/-- Settles O47: by the shape; what each class can write is said once for the class. -/
theorem registerWriters : Obligations.RegisterWriters := by
  unfold Obligations.RegisterWriters
  intro i s t h
  rw [exec_eq_run, Host.Outcome.next.injEq] at h
  subst h
  cases i.shape with
  | read op o => simpa [Shape.run, exists_or] using ReadOp.run_registers op o s
  | write op e => simp [Shape.run, WriteOp.run_registers op e s]
  | rmw op e => simpa [Shape.run, exists_or] using RmwOp.run_registers op e s
  | acc op => simp [Shape.run, AccOp.run_registers op s]
  | implied op => simpa [Shape.run] using ImpliedOp.run_registers op s
  | branch op d => simp [Shape.run, branch_registers]
  | brk sig => simp [Shape.run, State.takeException_eq]
  | jsr a => simp [Shape.run, opJsr_eq]
  | rts => obtain ⟨b, -, -, hrts⟩ := opRts_spec s; simp [Shape.run, hrts]
  | rti => obtain ⟨b, -, -, hrti⟩ := s.returnFromException_spec; simp [Shape.run, hrti]
  | pla => obtain ⟨b, -, -, hpla⟩ := opPla_spec s; simp [Shape.run, hpla]
  | plp => obtain ⟨b, -, -, hplp⟩ := opPlp_spec s; simp [Shape.run, hplp]
  | pha => simp [Shape.run, opPha]
  | php => simp [Shape.run, opPhp]
  | jmpAbs a => simp [Shape.run, opJmpAbs]
  | jmpInd a => simp [Shape.run, opJmpInd]
  | refused op => simp [Shape.run]

/-- Settles O48: by the shape, as O47. -/
theorem flagWriters : Obligations.FlagWriters := by
  unfold Obligations.FlagWriters
  intro i s t h
  rw [exec_eq_run, Host.Outcome.next.injEq] at h
  subst h
  cases i.shape with
  | read op o => simpa [Shape.run, exists_or] using ReadOp.run_flags op o s
  | write op e => simp [Shape.run, WriteOp.run_registers op e s]
  | rmw op e => simpa [Shape.run, exists_or] using RmwOp.run_flags op e s
  | acc op => simp [Shape.run, AccOp.run_flags op s]
  | implied op => simpa [Shape.run] using ImpliedOp.run_flags op s
  | branch op d => simp [Shape.run, branch_registers]
  | brk sig => simp [Shape.run, State.takeException_eq]
  | jsr a => simp [Shape.run, opJsr_eq]
  | rts => obtain ⟨b, -, -, hrts⟩ := opRts_spec s; simp [Shape.run, hrts]
  | rti => simp
  | pla => obtain ⟨b, -, -, hpla⟩ := opPla_spec s; simp [Shape.run, hpla, Flags.setNZ]
  | plp => simp
  | pha => simp [Shape.run, opPha]
  | php => simp [Shape.run, opPhp]
  | jmpAbs a => simp [Shape.run, opJmpAbs]
  | jmpInd a => simp [Shape.run, opJmpInd]
  | refused op => simp [Shape.run]

/-! ### Entries and returns -/

/-- Settles O10: the two discarded fetches, which keep the bus, then `takeException`: its frame is `takeException_spec`'s, its
vector `takeException_pc_of_still`'s. -/
theorem interruptEntryPushesAndVectors : Obligations.InterruptEntryPushesAndVectors := by
  unfold Obligations.InterruptEntryPushesAndVectors
  intro k s hk t v
  have hpolled : v = k.vector ∧ k.breakBit = false := by
    simp only [List.mem_cons, List.not_mem_nil, or_false] at hk
    rcases hk with rfl | rfl <;> exact ⟨rfl, rfl⟩
  obtain ⟨hv, hbit⟩ := hpolled
  have hfetch := s.dummyFetch2_keeps
  have ht : t = s.dummyFetch.dummyFetch.takeException k := rfl
  obtain ⟨ha, hx, hy, hsp, hflags, hreset, hfatal, hinputs⟩ := s.dummyFetch.dummyFetch.takeException_registers k
  obtain ⟨hframe, hstores, hnmi, hcycles⟩ := s.dummyFetch.dummyFetch.takeException_spec k
  have hpc := State.takeException_pc_of_still k hfetch
  rw [← ht, hbit] at hframe hpc
  rw [← ht] at hstores hnmi hcycles
  refine ⟨ha, hx, hy, hsp, hflags, hreset, hfatal, hinputs, hframe, ((hfetch.nmiMasked _).storesOnly _).trans hstores,
    fun hn hc => hnmi hn (by rw [hfetch.ctrl.written, hc]), by simpa using hcycles, ?bus, ?vector⟩
  case bus =>
    rw [ht, State.takeException_eq, hv, entryBus, hbit]
    exact ⟨rfl, rfl⟩
  case vector =>
    rw [hv]
    exact fun hstill _ => hpc hstill

/-- Settles O11: `takeException` of the entry that takes no NMI. -/
theorem brkPushesAndVectors : Obligations.BrkPushesAndVectors := by
  unfold Obligations.BrkPushesAndVectors
  intro sig s
  obtain ⟨ha, hx, hy, hsp, hflags, hreset, hfatal, hinputs⟩ := s.takeException_registers .brk
  obtain ⟨hframe, hstores, -, hcycles⟩ := s.takeException_spec .brk
  rw [Bus.nmiMasked_brk] at hstores
  refine ⟨rfl, s.takeException .brk, rfl, ha, hx, hy, hsp, hflags, hreset, hfatal, hinputs, hframe, hstores, hcycles, ?bus,
    fun hstill _ => State.takeException_pc_of_still .brk (Bus.Keeps.refl s.bus) hstill⟩
  case bus =>
    rw [State.takeException_eq, entryBus_brk]
    exact ⟨rfl, rfl⟩

/-- Settles O12: `returnFromException_spec`. -/
theorem rtiRestoresFrame : Obligations.RtiRestoresFrame := by
  unfold Obligations.RtiRestoresFrame
  intro s
  obtain ⟨b, hkeeps, hcycles, hrti⟩ := s.returnFromException_spec
  exact ⟨rfl, b, hkeeps, hcycles, congrArg Host.Outcome.next hrti⟩

/-- Settles O13: the three bytes that an entry pushed are the three bytes that RTI pulls. -/
theorem rtiUndoesEntry : Obligations.RtiUndoesEntry := by
  unfold Obligations.RtiUndoesEntry
  intro k s u hsp hslots
  obtain ⟨b, -, -, hrti⟩ := u.returnFromException_spec
  obtain ⟨hhi, hlo, hp⟩ := s.takeException_frame k
  obtain ⟨-, -, -, hentry, -⟩ := s.takeException_registers k
  have hbyte : ∀ j : Byte, j ∈ [s.sp, s.sp - 1, s.sp - 2] →
      Memory.byte u.bus.mem (256 + j.toNat) = Memory.byte (s.takeException k).bus.mem (256 + j.toNat) := by
    intro j hj
    simpa only [Bus.storage_stackAddr, Option.some.injEq] using hslots j hj
  have hsp3 : u.sp + 3 = s.sp := by rw [hsp, hentry, BitVec.sub_add_cancel]
  have hsp2 : u.sp + 2 = s.sp - 1 := by rw [← hsp3, ← byte_add_two_one, BitVec.add_sub_cancel]
  have hsp1 : u.sp + 1 = s.sp - 2 := by rw [← byte_sub_one_one, ← hsp2, ← byte_add_one_one, BitVec.add_sub_cancel]
  rw [hsp1, hsp2, hsp3, hbyte s.sp (by simp), hbyte (s.sp - 1) (by simp), hbyte (s.sp - 2) (by simp), hhi, hlo, hp,
    concat_hi_lo, Flags.unpack_pack] at hrti
  exact ⟨_, congrArg Host.Outcome.next hrti, rfl, rfl, rfl, rfl, rfl, rfl⟩

/-- Settles O14: PC's byte is read from the bus on which the return address has been pushed. -/
theorem jsrPushesReturnAddress : Obligations.JsrPushesReturnAddress := by
  unfold Obligations.JsrPushesReturnAddress
  intro a s
  refine ⟨rfl, ?_⟩
  intro c
  have hdummy := s.bus.dummyRead_keeps (stackAddr s.sp)
  have hstores : s.bus.StoresOnly [stackAddr s.sp, stackAddr (s.sp - 1)] c :=
    (hdummy.storesOnly _).trans (pushedReturn_storesOnly _ _ _)
  have hread : ∀ j, (c.read s.pc).2.storage (stackAddr j) = c.storage (stackAddr j) := fun j =>
    Bus.read_storage s.pc (Bus.still_of_ram (Bus.region_stackAddr c j))
  have hslot : ∀ k, (s.bus.sameCell k (stackAddr s.sp) = true → c.storage k = some (hi s.pc)) ∧
      (s.bus.sameCell k (stackAddr (s.sp - 1)) = true → c.storage k = some (lo s.pc)) := by
    intro k
    rw [← hdummy.sameCell (Bus.writable_stackAddr _ _), ← hdummy.sameCell (Bus.writable_stackAddr _ _)]
    exact pushedReturn_storage _ s.sp s.pc k
  refine ⟨(c.read s.pc).2, concat (c.read s.pc).1 (lo a), congrArg Host.Outcome.next (opJsr_eq a s), rfl, rfl,
    (hread _).trans ((hslot _).1 (Bus.sameCell_self _ _)), (hread _).trans ((hslot _).2 (Bus.sameCell_self _ _)),
    hstores.trans ((c.read_keeps s.pc).storesOnly _), by simp [c], lo_concat _ _, fun h hs hstill h1 h2 => ?apart,
    fun h => by rw [Bus.read_value ((hslot _).1 h)], fun h => by rw [Bus.read_value ((hslot _).2 h)]⟩
  case apart =>
    have hkept : c.storage s.pc = s.bus.storage s.pc :=
      hstores.storage s.pc (List.forall_mem_cons.mpr ⟨h1, List.forall_mem_singleton.mpr h2⟩)
        ((Bus.still_iff.mp hstill).imp_right (Bus.banksStay_of_ram · (by simp)))
    rw [Bus.read_value (hkept.trans hs)]

/-- Settles O15: `opRts_spec`. -/
theorem rtsPullsReturnAddress : Obligations.RtsPullsReturnAddress := by
  unfold Obligations.RtsPullsReturnAddress
  intro s
  obtain ⟨b, hkeeps, hcycles, hrts⟩ := opRts_spec s
  exact ⟨rfl, b, hkeeps, hcycles, congrArg Host.Outcome.next hrts⟩

/-- Settles O20: `opPla_spec` and `opPlp_spec`. -/
theorem pullsReadAboveStackPointer : Obligations.PullsReadAboveStackPointer := by
  unfold Obligations.PullsReadAboveStackPointer
  intro s
  obtain ⟨b, hkeeps, hcycles, hpla⟩ := opPla_spec s
  obtain ⟨b', hkeeps', hcycles', hplp⟩ := opPlp_spec s
  exact ⟨rfl, rfl, ⟨b, hkeeps, hcycles, congrArg Host.Outcome.next hpla⟩,
    ⟨b', hkeeps', hcycles', congrArg Host.Outcome.next hplp⟩⟩

/-! ### DMA -/

/-- Settles O55: the write of 0x4014, and `serviceDma` by what is requested. -/
theorem dmaRequestsAreServiced : Obligations.DmaRequestsAreServiced := by
  unfold Obligations.DmaRequestsAreServiced
  refine ⟨fun b v hp => Bus.write_oamDmaRequest v hp, fun e r s hp he => rmwBus_oamDmaRequest r hp he,
    fun s hp => ⟨_, exec_eq_run _ s, Bus.write_oamDmaRequest s.a hp⟩, fun s hp => ⟨_, exec_eq_run _ s, ?inc⟩,
    fun s w hf hp hexec hw => ?step, fun s page a h => State.serviceDma_both h, fun b a => ?dmc,
    fun s => s.serviceDma_dma⟩
  case inc =>
    have hbus : ((Instr.incAbs 0x4014).shape.run s).bus =
        rmwBus (.abs 0x4014) (rmwByte (.abs 0x4014) s + 1) s := rfl
    have hreq := fun r => rmwBus_oamDmaRequest (e := .abs 0x4014) r hp rfl
    rw [hbus, (hreq _).2, (hreq 0).1]
    rfl
  case step =>
    have hstep : step s = .next w.serviceDma := by
      rw [step_of_poll_instruction hf hp, hexec, finishInstr_next, hw]; rfl
    rw [hstep]
    exact ⟨fun page a h => by rw [State.serviceDma_both h], fun page h => by rw [State.serviceDma_oam h],
      fun a h => by rw [State.serviceDma_dmc h], fun h => by rw [State.serviceDma_none h]⟩
  case dmc =>
    have hkeeps := b.dmcDma_keeps a
    refine ⟨b.dmcDma_cycles a, fun h => by rw [b.dmcDma_cycles a, h], hkeeps.mem, hkeeps.rom, hkeeps.work,
      b.dmcDma_dma a, rfl, fun v hv hs => Bus.dmcDma_value hv hs⟩

end Sys2Proof.Proofs.MachineState
end

section
/-! SUPPORT. Effective addresses, what answers each window of the address decoder, the devices and the mapper as the CPU meets
them, and the inputs: the lemmas behind the statements of 20_memory.md. -/

namespace Sys2Proof.Machine

/-! ### Effective addresses (40_addressing_modes.md R186 to R191) -/

theorem zeroPage_eq_ofNat (z : Byte) : zeroPage z = BitVec.ofNat 16 z.toNat := by
  apply BitVec.eq_of_toNat_eq
  rw [zeroPage_toNat, BitVec.toNat_ofNat, Nat.mod_eq_of_lt (z.isLt.trans (by decide))]

theorem add_setWidth_eq_ofNat (a : Addr) (i : Byte) : a + i.setWidth 16 = BitVec.ofNat 16 (a.toNat + i.toNat) := by
  apply BitVec.eq_of_toNat_eq
  simp

/-- The address of (zp,X): a pointer in page 0, its high byte at the next address of page 0 (R190). -/
theorem resolve_indX_address (cls : AccessClass) (z : Byte) (s : State) :
    (resolve cls (.indX z) s).1 =
      concat (Memory.byte s.bus.mem (z + s.x + 1).toNat) (Memory.byte s.bus.mem (z + s.x).toNat) := by
  simp [resolve]

/-- The address of (zp),Y (R191). -/
theorem resolve_indY_address (cls : AccessClass) (z : Byte) (s : State) :
    (resolve cls (.indY z) s).1 =
      concat (Memory.byte s.bus.mem (z + 1).toNat) (Memory.byte s.bus.mem z.toNat) + s.y.setWidth 16 := by
  simp [resolve]

/-! ### The windows of the decoder (20_memory.md R83) -/

theorem Bus.region_eq_ram {b : Bus} {a : Addr} (hp : b.params.platform = .nes) : b.region a = .ram ↔ a.toNat < 0x2000 := by
  simp [Bus.region, hp, regionOf_nes]

theorem Bus.region_eq_disabled {b : Bus} {a : Addr} (hp : b.params.platform = .nes) :
    b.region a = .disabled ↔ 0x4018 ≤ a.toNat ∧ a.toNat < 0x4020 := by
  simp [Bus.region, hp, regionOf_nes]

/-! ### What answers a read, and what a write reaches, window by window -/

theorem Bus.answer_ram {b : Bus} {a : Addr} (h : b.region a = .ram) :
    b.answer a = (Memory.byte b.mem (b.cell a), b.drive (Memory.byte b.mem (b.cell a))) := by
  simp only [Bus.answer, h]

theorem Bus.answer_ppu {b : Bus} {a : Addr} {r : Nat} (h : b.region a = .ppu) (hr : a.toNat % 8 = r) :
    b.answer a = ((b.ppuRead r).1, (b.ppuRead r).2.drive (b.ppuRead r).1) := by
  simp only [Bus.answer, h, hr]

theorem Bus.answer_io {b : Bus} {a : Addr} {r : Nat} (h : b.region a = .io) (hr : a.toNat - 0x4000 = r) :
    b.answer a = ((b.ioRead r).1, (b.ioRead r).2.drive (b.ioRead r).1) := by
  simp only [Bus.answer, h, hr]

theorem Bus.store_ppu {b : Bus} {a : Addr} {r : Nat} (h : b.region a = .ppu) (hr : a.toNat % 8 = r) (v : Byte) :
    b.store a v = b.ppuWrite r v := by
  simp only [Bus.store, h, hr]

theorem Bus.store_io {b : Bus} {a : Addr} {r : Nat} (h : b.region a = .io) (hr : a.toNat - 0x4000 = r) (v : Byte) :
    b.store a v = b.ioWrite r v := by
  simp only [Bus.store, h, hr]

/-- A write-only APU register answers no read (R87). -/
theorem Bus.ioRead_writeOnly (b : Bus) {r : Nat} (h : r < 0x15) : b.ioRead r = (b.openBus, b) := by
  unfold Bus.ioRead
  split
  · omega
  · omega
  · omega
  · rfl

/-- Which addresses nothing drives: the disabled registers, the write-only ones of the APU, and what the mapper leaves (R83, R87,
R104). -/
theorem Bus.answer_undriven {b : Bus} {a : Addr} (hp : b.params.platform = .nes)
    (h : (0x4018 ≤ a.toNat ∧ a.toNat < 0x4020) ∨ (0x4020 ≤ a.toNat ∧ b.storage a = none) ∨
      (0x4000 ≤ a.toNat ∧ a.toNat < 0x4015)) : b.answer a = (b.openBus, b) := by
  rcases h with hd | ⟨hc, hs⟩ | ⟨hlow, hhigh⟩
  · simp only [Bus.answer, (Bus.region_eq_disabled hp).mpr hd]
  · have hr : b.region a = .cart := Bus.region_eq_cart.mpr ⟨hp, hc⟩
    simp only [Bus.storage, hr] at hs
    simp only [Bus.answer, hr, hs]
  · have hr : b.region a = .io := Bus.region_eq_io.mpr ⟨hp, hlow, by omega⟩
    rw [Bus.answer_io hr rfl, b.ioRead_writeOnly (by omega)]
    rfl

/-- Of the PPU's registers five are write-only (R85). -/
theorem Bus.ppuRead_writeOnly (b : Bus) {r : Nat} (h : r ∈ [0, 1, 3, 5, 6]) : b.ppuRead r = b.writeOnlyRead := by
  simp only [List.mem_cons, List.not_mem_nil, or_false] at h
  rcases h with rfl | rfl | rfl | rfl | rfl <;> rfl

/-- A read of one of them changes the count of free values only. -/
theorem Bus.writeOnlyRead_state (b : Bus) : ∃ n, b.writeOnlyRead.2 = { b with freeCount := n } := by
  rcases b.writeOnlyRead_frame with h | h
  · exact ⟨b.freeCount, h⟩
  · exact ⟨b.freeCount + 1, h⟩

/-! ### RAM (R84, R98) -/

theorem Memory.byte_write (m : Memory) (a k : Nat) (v : Byte) :
    Memory.byte (Memory.write m a v) k = if k = a then v else Memory.byte m k := by
  split
  · next h => rw [h, Memory.byte_write_same]
  · next h => exact Memory.byte_write_other m v h

/-- RAM reads back the last byte written to the cell. -/
theorem Bus.read_write_ram {b : Bus} {a k : Addr} (v : Byte) (ha : b.region a = .ram) (hk : b.region k = .ram) :
    ((b.write a v).read k).1 = if b.cell k = b.cell a then v else (b.read k).1 := by
  obtain ⟨hparams, -, -, -, -, -, -, hmem, -⟩ := b.write_frame a v
  rw [Bus.read_ram _ ((Bus.region_congr hparams k).trans hk), Bus.read_ram b hk, hmem, if_pos ha, Bus.cell_congr hparams,
    Memory.byte_write]

theorem Bus.cell_nes {b : Bus} (hp : b.params.platform = .nes) (a : Addr) : b.cell a = a.toNat % 2048 := by
  simp only [Bus.cell, ramCell, hp]

theorem Bus.cell_flat {b : Bus} (hp : b.params.platform = .flat) (a : Addr) : b.cell a = a.toNat := by
  simp only [Bus.cell, ramCell, hp]

theorem Bus.nmiLevel_flat {b : Bus} (hp : b.params.platform = .flat) : b.nmiLevel = false := by
  simp [Bus.nmiLevel, hp]

/-! ### Writes that nothing stores (R83, R93) -/

/-- No RAM, no PRG RAM and no device takes a byte written to the address. -/
def Bus.unstored (b : Bus) (a : Addr) : Prop :=
  (0x4020 ≤ a.toNat ∧ ∀ n, b.cart.target a ≠ some (.ram n)) ∨ (0x4018 ≤ a.toNat ∧ a.toNat < 0x4020)

/-- A write of an address that is no PRG RAM stores no byte. -/
theorem Cartridge.store_of_not_ram {c : Cartridge} {a : Addr} (v : Byte) (h : ∀ n, c.target a ≠ some (.ram n)) : c.store a v = c := by
  unfold Cartridge.store
  split
  · next k hk => exact absurd hk (h k)
  · rfl
  · rfl

/-- Such a write is the mapper's `cpu_write`, in its window, or nobody's. -/
theorem Bus.store_unstored {b : Bus} {a : Addr} (v : Byte) (hp : b.params.platform = .nes) (h : b.unstored a) :
    (∃ m, b.store a v = { b with cart := { b.cart with map := m } }) ∧ (b.cart.selects a = false → b.store a v = b) := by
  rcases h with ⟨hc, ht⟩ | hd
  · have hr : b.region a = .cart := Bus.region_eq_cart.mpr ⟨hp, hc⟩
    have hstore : b.cart.store a v = b.cart := Cartridge.store_of_not_ram v ht
    simp only [Bus.store, hr]
    exact ⟨⟨b.cart.afterWrite a v, by rw [Cartridge.cpuWrite, hstore]⟩,
      fun hs => by rw [Cartridge.cpuWrite_eq_store v hs, hstore]⟩
  · have hr := (Bus.region_eq_disabled hp).mpr hd
    simp only [Bus.store, hr]
    exact ⟨⟨b.cart.map, rfl⟩, fun _ => trivial⟩

/-- All that an observation can change is the mapper's state (60_exceptions.md R454). -/
theorem Cartridge.observe_eq (c : Cartridge) (w : Bool) (a : Addr) (v : Byte) : ∃ m, c.observe w a v = { c with map := m } := by
  unfold Cartridge.observe
  split
  · exact ⟨c.map, rfl⟩
  · exact ⟨c.map, rfl⟩
  · exact ⟨_, rfl⟩

theorem Bus.write_unstored {b : Bus} {a : Addr} (v : Byte) (hp : b.params.platform = .nes) (h : b.unstored a) :
    (∃ m, b.write a v = ({ b.drive v with cart := { b.cart with map := m } } : Bus).tick) ∧
    (b.cart.selects a = false → b.write a v = (b.drive v).tick) := by
  obtain ⟨⟨m, hm⟩, hsel⟩ := Bus.store_unstored (b := b.drive v) v hp h
  refine ⟨?_, fun hs => ?_⟩
  · obtain ⟨m', hm'⟩ := Cartridge.observe_eq { b.cart with map := m } true a v
    refine ⟨m', ?_⟩
    simp only [Bus.write, Bus.accessWrite, hm, Bus.observe, Bus.drive_cart, hm']
  · have hq : (b.drive v).cart.quiet = true := Cartridge.quiet_of_selects hs
    rw [Bus.write, Bus.accessWrite, hsel hs, Bus.observe_quiet true a v hq]

/-! ### The APU's IRQ flags (R87, 60_exceptions.md R429) -/

/-- A write of an APU register that is neither 0x4014 nor 0x4016. -/
theorem Bus.write_apu {b : Bus} {a : Addr} {r : Nat} (v : Byte) (hp : b.params.platform = .nes) (ha : a.toNat = 0x4000 + r)
    (hr : r < 0x18) (h14 : r ≠ 0x14) (h16 : r ≠ 0x16) :
    (b.write a v).apu = { b.apu.write r v with clock := b.apu.clock + 1 } := by
  have hregion : (b.drive v).region a = .io := Bus.region_eq_io.mpr ⟨hp, by omega, by omega⟩
  have hio : ((b.drive v).ioWrite r v).apu = b.apu.write r v := by
    unfold Bus.ioWrite
    split
    · exact absurd rfl h14
    · exact absurd rfl h16
    · rfl
  simp only [Bus.write, Bus.accessWrite, Bus.store_io hregion (show a.toNat - 0x4000 = r by omega), Bus.tick_apu, Bus.observe_apu,
    hio]
  rfl

/-- A read of 0x4015 clears the frame IRQ (R87). -/
theorem Bus.read_status {b : Bus} (hp : b.params.platform = .nes) : (b.read 0x4015).2.apu.frameIrq = false := by
  have hr : b.region 0x4015 = .io := Bus.region_eq_io.mpr ⟨hp, by decide, by decide⟩
  have e : (0x4015 : Addr).toNat - 0x4000 = 0x15 := by decide
  simp only [Bus.read, Bus.accessRead, Bus.answer_io hr e, Bus.tick_apu]
  rfl

/-- A write of RAM is no access of the APU. -/
theorem Bus.write_ram_frameIrq {b : Bus} {a : Addr} (v : Byte) (h : b.region a = .ram) :
    (b.write a v).apu.frameIrq = b.apu.frameIrq := by
  have hr : (b.drive v).region a = .ram := h
  simp only [Bus.write, Bus.accessWrite, Bus.store, hr, Bus.tick_apu, Bus.observe_apu, Bus.drive_apu]

theorem State.takeException_irq (k : Entry) (s : State) :
    (s.takeException k).bus.apu.frameIrq = s.bus.apu.frameIrq ∧ (s.takeException k).bus.apu.dmcIrq = s.bus.apu.dmcIrq ∧
    (s.bus.cart.quiet = true → (s.takeException k).bus.cart.map = s.bus.cart.map) := by
  obtain ⟨-, hstores, -, -⟩ := s.takeException_spec k
  obtain ⟨-, -, -, -, -, -, -, -, -, hdmc⟩ := hstores.devices (by simp [Bus.region])
  refine ⟨?_, hdmc, fun hq => hstores.map (Bus.banksStay_of_ram hq (by simp [Bus.region]))⟩
  have hvector : k.vector ≠ 0x4015 ∧ k.vector + 1 ≠ 0x4015 := by cases k <;> decide
  have hpushed : (entryBus k s).apu.frameIrq = s.bus.apu.frameIrq := by
    simp only [entryBus, pushedFrame, Bus.write_ram_frameIrq _ (Bus.region_stackAddr _ _)]
  rw [State.takeException_eq, ← hpushed]
  exact (Bus.read_frameIrq _ hvector.2).trans (Bus.read_frameIrq _ hvector.1)

/-! ### The reset sequence (70_reset_and_hazards.md R502) -/

/-- The bus a reset sequence reads its vector from: five reads, then the NMI latch and the DMA requests cleared. -/
def resetBus (s : State) : Bus :=
  { ((((s.bus.dummyRead s.pc).dummyRead s.pc).dummyRead (stackAddr s.sp)).dummyRead (stackAddr (s.sp - 1))).dummyRead
      (stackAddr (s.sp - 2)) with
    nmiPending := false
    dma := {} }

/-- The reset sequence, whole. -/
theorem State.resetSequence_eq (s : State) : s.resetSequence =
    { s with
      bus := (((resetBus s).read 0xFFFC).2.read 0xFFFD).2
      sp := s.sp - 3
      flags := { s.flags with i := true }
      pc := concat (((resetBus s).read 0xFFFC).2.read 0xFFFD).1 ((resetBus s).read 0xFFFC).1
      resetPending := false } := by
  have hthree : s.sp - 2 - 1 = s.sp - 3 := BitVec.sub_sub s.sp 2 1
  simp only [State.resetSequence, State.dummyFetch, State.dummyRead, State.resetPop, byte_sub_one_one, hthree]
  rfl

/-- Its five reads leave storage and every register that only a write changes. -/
theorem resetBus_keeps (s : State) : ({ s.bus with nmiPending := false, dma := {} } : Bus).Keeps (resetBus s) :=
  ((((((Bus.dummyRead_keeps _ _).trans (Bus.dummyRead_keeps _ _)).trans (Bus.dummyRead_keeps _ _)).trans
    (Bus.dummyRead_keeps _ _)).trans (Bus.dummyRead_keeps _ _))).cleared {}

/-- The last of the five reads drives the byte of a stack slot. -/
theorem resetBus_openBus (s : State) : (resetBus s).openBus = Memory.byte s.bus.mem (256 + (s.sp - 2).toNat) := by
  have hread : ∀ b : Bus, (b.dummyRead (stackAddr (s.sp - 2))).openBus = Memory.byte b.mem (256 + (s.sp - 2).toNat) := fun b =>
    (Bus.read_getD (.inl (Bus.region_stackAddr b _))).2.trans (b.read_stack _)
  simp only [resetBus, hread, Bus.dummyRead_mem]

theorem resetBus_cycles (s : State) : (resetBus s).cycles = s.bus.cycles + 5 := by
  simp only [resetBus, Bus.dummyRead_cycles]

theorem State.resetSequence_keeps (s : State) :
    ({ s.bus with nmiPending := false, dma := {} } : Bus).Keeps s.resetSequence.bus := by
  rw [State.resetSequence_eq]
  exact ((resetBus_keeps s).trans (Bus.read_keeps _ _)).trans (Bus.read_keeps _ _)

/-! ### The OAM DMA (R95) -/

/-- One transfer of an OAM DMA: the `i`-th byte of the page, read and written to OAMDATA. -/
def Bus.oamTransfer (page i : Byte) (b : Bus) : Bus :=
  (b.read (concat page i)).2.write oamDataAddr (b.read (concat page i)).1

/-- The bus before each transfer, from the bus after the alignment cycles on. -/
def Bus.oamRun (page : Byte) (b : Bus) : Nat → Bus
  | 0 => b
  | n + 1 => Bus.oamTransfer page (BitVec.ofNat 8 n) (Bus.oamRun page b n)

/-- All that a transfer does, on the map of R83. -/
theorem Bus.oamTransfer_spec {b : Bus} (page i : Byte) (hp : b.params.platform = .nes) :
    b.OamOnly (b.oamTransfer page i) ∧
    (b.oamTransfer page i).ppu.oam = Memory.write b.ppu.oam b.ppu.oamAddr.toNat (b.read (concat page i)).1 ∧
    (b.oamTransfer page i).ppu.oamAddr = b.ppu.oamAddr + 1 := by
  have hread := b.read_keeps (concat page i)
  obtain ⟨honly, hoam, haddr⟩ :=
    Bus.write_oamData (b.read (concat page i)).1 ((congrArg Params.platform hread.params).trans hp)
  rw [hread.oam, hread.oamAddr] at hoam
  rw [hread.oamAddr] at haddr
  exact ⟨hread.oamOnly.trans honly, hoam, haddr⟩

/-- The transfers that are left lead to the bus after all 256. -/
theorem Bus.oamCopy_oamRun (page : Byte) (b : Bus) {k n : Nat} (h : k + n = 256) :
    Bus.oamCopy page n (Bus.oamRun page b k) = Bus.oamRun page b 256 := by
  induction n generalizing k with
  | zero => rw [← h]; rfl
  | succ n ih =>
    have hindex : 255 - n = k := by omega
    rw [← ih (k := k + 1) (by omega), Bus.oamCopy, hindex]
    rfl

/-- Any sequence of buses with a transfer from each to the next is that one. -/
theorem Bus.eq_oamRun {page : Byte} {c : Nat → Bus} (hc : ∀ n, c (n + 1) = Bus.oamTransfer page (BitVec.ofNat 8 n) (c n)) (n : Nat) :
    c n = Bus.oamRun page (c 0) n := by
  induction n with
  | zero => rfl
  | succ n ih => rw [hc, ih]; rfl

theorem Bus.oamRun_only {b : Bus} (page : Byte) (hp : b.params.platform = .nes) (n : Nat) :
    b.OamOnly (Bus.oamRun page b n) ∧ (Bus.oamRun page b n).ppu.oamAddr = b.ppu.oamAddr + BitVec.ofNat 8 n := by
  induction n with
  | zero => exact ⟨(Bus.Keeps.refl _).oamOnly, (BitVec.add_zero _).symm⟩
  | succ n ih =>
    obtain ⟨honly, haddr⟩ := ih
    obtain ⟨htransfer, -, hnext⟩ :=
      Bus.oamTransfer_spec page (BitVec.ofNat 8 n) ((congrArg Params.platform honly.params).trans hp)
    refine ⟨honly.trans htransfer, hnext.trans ?_⟩
    rw [haddr, BitVec.add_assoc, ← BitVec.ofNat_add_ofNat]
    rfl

/-- After `n` transfers object memory holds the bytes the first `n` reads returned, at OAMADDR and on, modulo 256. -/
theorem Bus.oamRun_copied {b : Bus} (page : Byte) (hp : b.params.platform = .nes) {n : Nat} (hn : n ≤ 256) (i : Byte)
    (hi : i.toNat < n) : Memory.byte (Bus.oamRun page b n).ppu.oam (b.ppu.oamAddr + i).toNat =
      ((Bus.oamRun page b i.toNat).read (concat page i)).1 := by
  induction n with
  | zero => omega
  | succ n ih =>
    obtain ⟨honly, haddr⟩ := Bus.oamRun_only page hp n
    obtain ⟨-, hoam, -⟩ := Bus.oamTransfer_spec page (BitVec.ofNat 8 n) ((congrArg Params.platform honly.params).trans hp)
    have hslot : (b.ppu.oamAddr + i).toNat = (b.ppu.oamAddr + BitVec.ofNat 8 n).toNat ↔ i = BitVec.ofNat 8 n := by
      rw [BitVec.toNat_inj, BitVec.add_right_inj]
    have hlast : i = BitVec.ofNat 8 n ↔ i.toNat = n := by
      rw [← BitVec.toNat_inj, BitVec.toNat_ofNat, Nat.mod_eq_of_lt (by omega)]
    rw [Bus.oamRun, hoam, Memory.byte_write, haddr]
    simp only [hslot]
    split
    · next h => rw [← h, ← hlast.mp h]
    · next h => exact ih (by omega) (by have := mt hlast.mpr h; omega)

/-- An OAM DMA is its alignment cycles and its transfers, and ends its request (R95, R96). -/
theorem Bus.oamDma_spec {b : Bus} (page : Byte) (hp : b.params.platform = .nes) :
    ∃ r, r = Bus.oamRun page (Bus.idle b.oamAlign b) 256 ∧ b.oamDma page = { r with dma := { r.dma with oam := none } } ∧
      b.OamOnly r ∧ r.cycles = b.cycles + 512 + b.oamAlign := by
  obtain ⟨hidle, hidleCycles⟩ := Bus.idle_spec b.oamAlign b
  obtain ⟨hcopy, hcopyCycles⟩ := Bus.oamCopy_spec page 256 ((congrArg Params.platform hidle.params).trans hp)
  have hrun : Bus.oamCopy page 256 (Bus.idle b.oamAlign b) = Bus.oamRun page (Bus.idle b.oamAlign b) 256 :=
    Bus.oamCopy_oamRun page (Bus.idle b.oamAlign b) (k := 0) (Nat.zero_add 256)
  exact ⟨_, hrun, by rw [Bus.oamDma], hidle.oamOnly.trans hcopy, by omega⟩

/-! ### PPU registers (R85, 60_exceptions.md R452) -/

section
variable {b : Bus} {a : Addr} {r : Nat} (h : b.region a = .ppu) (hr : a.toNat % 8 = r)
include h hr

/-- A write of a PPU register changes the PPU as its handler does. -/
theorem Bus.accessWrite_ppu (v : Byte) : (b.accessWrite a v).ppu = ((b.drive v).ppuWrite r v).ppu := by
  rw [Bus.accessWrite, Bus.store_ppu (b := b.drive v) h hr, Bus.observe_ppu]

theorem Bus.accessRead_ppu : (b.accessRead a).1 = (b.ppuRead r).1 ∧ (b.accessRead a).2.ppu = (b.ppuRead r).2.ppu := by
  simp only [Bus.accessRead, Bus.answer_ppu h hr, Bus.observe_ppu, Bus.drive_ppu, and_self]

end

theorem Bus.write_ppu (b : Bus) (a : Addr) (v : Byte) : (b.write a v).ppu = (b.accessWrite a v).ppu.advance.advance.advance :=
  Bus.tick_ppu _

theorem Bus.read_ppu (b : Bus) (a : Addr) : (b.read a).2.ppu = (b.accessRead a).2.ppu.advance.advance.advance :=
  Bus.tick_ppu _

@[simp] theorem Bus.accessWrite_params (b : Bus) (a : Addr) (v : Byte) : (b.accessWrite a v).params = b.params := by
  obtain ⟨hparams, -⟩ := (b.drive v).store_frame a v
  exact hparams

/-- A register that rests is as it was, or what was deferred of it is in force. -/
theorem Latched.Rests.cases {α : Type} {r s : Latched α} (h : r.Rests s) :
    s = r ∨ (r.held = true ∧ s = { written := r.written, inForce := r.written, held := false }) := by
  rcases h with rfl | rfl
  · exact .inl rfl
  · cases hh : r.held with
    | true => exact .inr ⟨rfl, by simp only [Latched.settle, hh, if_true]⟩
    | false => exact .inl (Latched.settle_of_not_held hh)

/-- At the first dot of scanline 0 all that was deferred is applied. -/
theorem Ppu.settle_frameStart {p : Ppu} (hs : p.scanline = 0) (hd : p.dot = 0) : p.settle.holds = false := by
  have hb : p.atBoundary = true := by simp [Ppu.atBoundary, hs, hd]
  unfold Ppu.settle
  cases hh : p.holds with
  | true => simp [hb, Ppu.holds]
  | false => simpa using hh

theorem Ppu.advance_frameStart {p : Ppu} (hs : p.advance.scanline = 0) (hd : p.advance.dot = 0) :
    p.advance.holds = false := by
  obtain ⟨-, -, -, -, -, -, -, -, hscan, hdot, -⟩ := p.move.mark.settle_keeps
  exact Ppu.settle_frameStart (hscan.symm.trans hs) (hdot.symm.trans hd)

/-- PPUSTATUS, bit by bit (R85). -/
theorem Ppu.status_bits (p : Ppu) (low : Byte) :
    (p.status low).getLsbD 7 = p.vblank ∧ (p.status low).getLsbD 6 = p.spriteZero ∧ (p.status low).getLsbD 5 = p.spriteOverflow := by
  unfold Ppu.status
  have happend : ∀ i, BitVec.getLsbD (w := 8) (BitVec.ofBool p.vblank ++ BitVec.ofBool p.spriteZero ++
      BitVec.ofBool p.spriteOverflow ++ low.setWidth 5) i = _ := fun i => BitVec.getLsbD_append
  simp only [happend, BitVec.getLsbD_append, BitVec.getLsbD_ofBool]
  exact ⟨rfl, rfl, rfl⟩

/-- Every write of PPUSCROLL or PPUADDR toggles the latch they share (R525). -/
theorem Bus.ppuWrite_writeLatch (b : Bus) (v : Byte) {r : Nat} (h : r = 5 ∨ r = 6) :
    (b.ppuWrite r v).ppu.writeLatch = !b.ppu.writeLatch := by
  rcases h with rfl | rfl <;> cases hl : b.ppu.writeLatch <;> simp [Bus.ppuWrite, hl]

theorem Bus.write_writeLatch {b : Bus} {a : Addr} (v : Byte) (h : b.region a = .ppu) (hr : a.toNat % 8 = 5 ∨ a.toNat % 8 = 6) :
    (b.write a v).ppu.writeLatch = !b.ppu.writeLatch := by
  rw [Bus.write_ppu, Ppu.advance_writeLatch, Ppu.advance_writeLatch, Ppu.advance_writeLatch, Bus.accessWrite_ppu h rfl,
    Bus.ppuWrite_writeLatch _ v hr, Bus.drive_ppu]

/-- A read of a register other than PPUSTATUS and PPUDATA changes nothing in the PPU. -/
theorem Bus.ppuRead_ppu (b : Bus) {r : Nat} (h : r ∈ [0, 1, 3, 4, 5, 6]) : (b.ppuRead r).2.ppu = b.ppu := by
  by_cases h4 : r = 4
  · subst h4; rfl
  · obtain ⟨n, hn⟩ := b.writeOnlyRead_state
    rw [b.ppuRead_writeOnly (by simp_all), hn]

/-- An RMW access of PPUADDR toggles the latch twice, and its read not at all. -/
theorem rmwBus_ppuAddr {s : State} (r : Byte) (hp : s.bus.params.platform = .nes) :
    (rmwBus (.abs 0x2006) r s).ppu.writeLatch = s.bus.ppu.writeLatch := by
  have hregion : ∀ c : Bus, c.params = s.bus.params → c.region 0x2006 = .ppu := fun c hc =>
    Bus.region_eq_ppu.mpr ⟨by rw [hc, hp], by decide, by decide⟩
  have htoggle : ∀ (c : Bus) (v : Byte), c.params = s.bus.params → (c.write 0x2006 v).ppu.writeLatch = !c.ppu.writeLatch :=
    fun c v hc => Bus.write_writeLatch v (hregion c hc) (.inr (by decide))
  have hread : (s.bus.read 0x2006).2.ppu.writeLatch = s.bus.ppu.writeLatch := by
    obtain ⟨-, hstate⟩ := Bus.accessRead_ppu (hregion s.bus rfl) (r := 6) (by decide)
    simp only [Bus.read_ppu, Ppu.advance_writeLatch, hstate, Bus.ppuRead_ppu _ (show 6 ∈ [0, 1, 3, 4, 5, 6] by decide)]
  simp only [rmwBus, resolve]
  rw [htoggle _ _ (by simp), htoggle _ _ (by simp), hread, Bool.not_not]

/-! ### Controllers (R88) -/

theorem buttonBits_get (v : Byte) {k : Nat} (hk : k < 8) : (buttonBits v)[k]? = some (v.getLsbD k) := by
  interval_cases k <;> rfl

/-- A port returns the next bit to be shifted out in bit 0. -/
theorem Controller.value_bit {c : Controller} {bit : Bool} (h : c.shift[0]? = some bit) (free : Byte) :
    (c.value free).getLsbD 0 = bit := by
  cases hs : c.shift with
  | nil => simp [hs] at h
  | cons x xs =>
    obtain rfl : x = bit := by simpa [hs] using h
    have happend : BitVec.getLsbD (w := 8) (free.extractLsb' 1 7 ++ BitVec.ofBool x) 0 = _ := BitVec.getLsbD_append
    simp only [Controller.value, hs, happend, BitVec.getLsbD_ofBool]
    rfl

/-- What a read of a controller port answers and does: `pad` is the controller at `port`. -/
def Bus.Serial (port : Addr) (pad : Bus → Controller) : Prop :=
  ∀ b : Bus, b.params.platform = .nes →
    (b.read port).1 = (pad b).value (Config.freeByte b.freeCount) ∧ (pad (b.read port).2).shift = (pad b).shift.tail

theorem Bus.serial_pad1 : Bus.Serial 0x4016 Bus.pad1 := by
  intro b hp
  have h : b.region 0x4016 = .io := Bus.region_eq_io.mpr ⟨hp, by decide, by decide⟩
  have hr : (0x4016 : Addr).toNat - 0x4000 = 0x16 := by decide
  simp only [Bus.read, Bus.accessRead, Bus.answer_io h hr, Bus.tick_pad1]
  exact ⟨rfl, rfl⟩

theorem Bus.serial_pad2 : Bus.Serial 0x4017 Bus.pad2 := by
  intro b hp
  have h : b.region 0x4017 = .io := Bus.region_eq_io.mpr ⟨hp, by decide, by decide⟩
  have hr : (0x4017 : Addr).toNat - 0x4000 = 0x17 := by decide
  simp only [Bus.read, Bus.accessRead, Bus.answer_io h hr, Bus.tick_pad2]
  exact ⟨rfl, rfl⟩

/-- The `k`-th read of a port after its bits were latched has bit `k` in bit 0, where each bus of the sequence is the one after a
read, but for what leaves the platform and the bits to be shifted out alone. -/
theorem Bus.Serial.read_bit {port : Addr} {pad : Bus → Controller} (hserial : Bus.Serial port pad) {c : Nat → Bus} {v : Byte}
    (hp : (c 0).params.platform = .nes) (h0 : (pad (c 0)).shift = buttonBits v)
    (hparams : ∀ n, (c (n + 1)).params = (c n).params)
    (hshift : ∀ n, (pad (c (n + 1))).shift = (pad ((c n).read port).2).shift) {k : Nat} (hk : k < 8) :
    ((c k).read port).1.getLsbD 0 = v.getLsbD k := by
  have hrun : ∀ n, (c n).params.platform = .nes ∧ (pad (c n)).shift = (buttonBits v).drop n := by
    intro n
    induction n with
    | zero => exact ⟨hp, h0⟩
    | succ n ih =>
      obtain ⟨hn, hbits⟩ := ih
      exact ⟨by rw [hparams, hn], by rw [hshift, (hserial _ hn).2, hbits, List.tail_drop]⟩
  obtain ⟨hpk, hbits⟩ := hrun k
  rw [(hserial _ hpk).1]
  exact Controller.value_bit (by rw [hbits, List.getElem?_drop, Nat.add_zero, buttonBits_get v hk]) _

/-- A write of 0x4016 latches both snapshots if bit 0 is set (R88). -/
theorem Bus.write_strobe {b : Bus} (v : Byte) (hp : b.params.platform = .nes) :
    (b.write 0x4016 v).pad1 = (if v.getLsbD 0 then b.pad1.strobe else b.pad1) ∧
    (b.write 0x4016 v).pad2 = (if v.getLsbD 0 then b.pad2.strobe else b.pad2) := by
  have h : (b.drive v).region 0x4016 = .io := Bus.region_eq_io.mpr ⟨hp, by decide, by decide⟩
  have hr : (0x4016 : Addr).toNat - 0x4000 = 0x16 := by decide
  rw [Bus.write, Bus.accessWrite, Bus.store_io h hr, Bus.tick_pad1, Bus.tick_pad2, Bus.observe_pad1, Bus.observe_pad2]
  simp only [Bus.ioWrite]
  split <;> exact ⟨rfl, rfl⟩

/-! ### The mapper (R104, R105, 60_exceptions.md R454) -/

/-- Windows that do not cover an address translate it to nothing. -/
theorem prgTranslate_none {pre : List PrgWindow} {a : Addr} (h : ∀ x ∈ pre, inWindow x a = false) (i : CartInfo) :
    prgTranslate pre i a = none := by
  have := prgTranslate_skip h i []
  rwa [List.append_nil] at this

/-- The first window that covers an address decides, whatever stands before and after it. -/
theorem prgTranslate_first {pre post : List PrgWindow} {w : PrgWindow} {a : Addr} (hpre : ∀ x ∈ pre, inWindow x a = false)
    (hw : inWindow w a = true) (i : CartInfo) : prgTranslate (pre ++ w :: post) i a = windowCell w i a :=
  (prgTranslate_skip hpre i _).trans (prgTranslate_hit hw i post)

/-- Where one bank-select register answers, its window takes the bank and no other does. -/
theorem selectBanks_only {rs ss : List BankRegister} {r : BankRegister} {a : Addr} (v : Byte) (ws : List PrgWindow)
    (hr : inRegister r a = true) (hrest : ∀ q ∈ rs ++ ss, inRegister q a = false) :
    selectBanks (rs ++ r :: ss) a v ws = selectBank r v ws := by
  have hnone : ∀ l : List BankRegister, l ⊆ rs ++ ss → l.any (fun q => inRegister q a) = false := by
    intro l hl
    rw [List.any_eq_false]
    intro q hq
    rw [hrest q (hl hq)]
    exact Bool.false_ne_true
  have hcons : selectBanks (r :: ss) a v ws = selectBanks ss a v (selectBank r v ws) := by
    simp only [selectBanks, List.foldl_cons, hr, if_true]
  rw [selectBanks_append, selectBanks_none v ws (hnone rs (List.subset_append_left _ _)), hcons,
    selectBanks_none v _ (hnone ss (List.subset_append_right _ _))]

/-- What a read does to the cartridge: the mapper observes it and is ticked (R82, R454). -/
theorem Bus.read_cart (b : Bus) (a : Addr) :
    (b.read a).2.cart = (b.cart.observe false a (b.read a).1).tick b.ppu.scanline b.ppu.dot b.ppu.rendering := by
  obtain ⟨-, hcart, -, -, -, hscan, hdot, -⟩ := b.answer_frame a
  have hrendering : (b.answer a).2.ppu.rendering = b.ppu.rendering := by rw [Ppu.rendering, b.answer_mask]; rfl
  rw [Bus.read_fst]
  simp only [Bus.read, Bus.accessRead, Bus.tick_cart, Bus.observe_cart, Bus.observe_ppu, hcart, hscan, hdot, hrendering]

/-- What a write does to it: `cpu_write` in its window, then the same. -/
theorem Bus.write_cart (b : Bus) (a : Addr) (v : Byte) :
    (b.write a v).cart = ((if b.region a = .cart then b.cart.cpuWrite a v else b.cart).observe true a v).tick
      (b.accessWrite a v).ppu.scanline (b.accessWrite a v).ppu.dot (b.accessWrite a v).ppu.rendering := by
  obtain ⟨-, -, -, -, -, -, -, -, -, hcart⟩ := (b.drive v).store_frame a v
  have hstored : ((b.drive v).store a v).cart = if b.region a = .cart then b.cart.cpuWrite a v else b.cart := hcart
  rw [Bus.write, Bus.tick_cart]
  conv_lhs => rw [Bus.accessWrite, Bus.observe_cart, hstored, ← Bus.accessWrite]

/-- A mapper that is no free variant is quiet. -/
theorem Cartridge.quiet_iff (c : Cartridge) : c.quiet = true ↔ c.mapper ≠ .variant := by
  unfold Cartridge.quiet
  split <;> simp [*]

section
variable {b : Bus} {a : Addr} {rs ss : List BankRegister} {r : BankRegister} {pre post : List PrgWindow} {w : PrgWindow}
  (hregion : b.region a = .cart) (hm : b.cart.mapper = .banked (rs ++ r :: ss)) (hr : inRegister r a = true)
  (hrest : ∀ q ∈ rs ++ ss, inRegister q a = false) (hws : b.cart.map.windows = pre ++ w :: post) (hindex : pre.length = r.window)
include hregion hm hr hrest hws hindex

/-- The windows after a write to the one bank-select register that answers there (R104, R105). -/
theorem Bus.write_selects (v : Byte) :
    (b.write a v).cart.map.windows = pre ++ { w with offset := v.toNat % r.count * r.size } :: post := by
  have hquiet : b.cart.quiet = true := by rw [Cartridge.quiet_iff, hm]; exact nofun
  obtain ⟨-, -, -, -, -, -, -, -, -, -, -, -, hcart⟩ := b.write_frame a v
  obtain ⟨-, -, -, -, hmap⟩ := b.cart.cpuWrite_frame a v
  rw [hcart hquiet, if_pos hregion, hmap]
  simp only [Cartridge.afterWrite, hm]
  rw [selectBanks_only v _ hr hrest, hws, selectBank_at w v hindex]

/-- An address of the window reads the selected bank of the ROM image from then on (R105). -/
theorem Bus.write_selects_storage {k : Addr} (v : Byte) (hk : b.region k = .cart) (hpre : ∀ x ∈ pre, inWindow x k = false)
    (hw : inWindow w k = true) (hram : w.ram = false)
    (hsize : v.toNat % r.count * r.size + (k.toNat - w.first) < b.cart.info.romSize) :
    (b.write a v).storage k = some (Memory.byte b.cart.rom (v.toNat % r.count * r.size + (k.toNat - w.first))) := by
  obtain ⟨hparams, -, -, -, -, -, -, -, hinfo, -, hrom, -⟩ := b.write_frame a v
  have hcover : inWindow { w with offset := v.toNat % r.count * r.size } k = true := hw
  have htarget : (b.write a v).cart.target k = some (.rom (v.toNat % r.count * r.size + (k.toNat - w.first))) := by
    rw [Cartridge.target, Bus.write_selects hregion hm hr hrest hws hindex, prgTranslate_first hpre hcover]
    simp only [windowCell, hram, hinfo, hsize, Bool.false_eq_true, if_false, if_true]
  simp only [Bus.storage, Bus.region_congr hparams, hk, Cartridge.cpuRead, htarget, Option.map_some, Cartridge.byte, hrom]

end

/-! ### Inputs (60_exceptions.md R446) -/

/-- What no input changes: the CPU's registers, the clock, the data bus, the NMI latch, the parameters and all storage. -/
structure State.SameCpu (s t : State) : Prop where
  a : t.a = s.a
  x : t.x = s.x
  y : t.y = s.y
  sp : t.sp = s.sp
  pc : t.pc = s.pc
  flags : t.flags = s.flags
  fatal : t.fatal = s.fatal
  cycles : t.bus.cycles = s.bus.cycles
  openBus : t.bus.openBus = s.bus.openBus
  nmiPending : t.bus.nmiPending = s.bus.nmiPending
  params : t.bus.params = s.bus.params
  mem : t.bus.mem = s.bus.mem
  rom : t.bus.cart.rom = s.bus.cart.rom
  work : t.bus.cart.work = s.bus.cart.work
  storage : ∀ a, t.bus.storage a = s.bus.storage a

theorem State.applyEvent_sameCpu (s : State) (e : PlatformEvent) : s.SameCpu (s.applyEvent e) := by
  cases e <;> constructor <;> intros <;> rfl

theorem State.SameCpu.trans {s t u : State} (h : s.SameCpu t) (k : t.SameCpu u) : s.SameCpu u where
  a := k.a.trans h.a
  x := k.x.trans h.x
  y := k.y.trans h.y
  sp := k.sp.trans h.sp
  pc := k.pc.trans h.pc
  flags := k.flags.trans h.flags
  fatal := k.fatal.trans h.fatal
  cycles := k.cycles.trans h.cycles
  openBus := k.openBus.trans h.openBus
  nmiPending := k.nmiPending.trans h.nmiPending
  params := k.params.trans h.params
  mem := k.mem.trans h.mem
  rom := k.rom.trans h.rom
  work := k.work.trans h.work
  storage := fun a => (k.storage a).trans (h.storage a)

theorem State.sameCpu_inputs (s : State) (l : List (List PlatformEvent)) : s.SameCpu { s with inputs := l } := by
  constructor <;> intros <;> rfl

theorem State.foldl_applyEvent_sameCpu (g : List PlatformEvent) {s t : State} (h : s.SameCpu t) :
    s.SameCpu (g.foldl State.applyEvent t) := by
  induction g generalizing t with
  | nil => exact h
  | cons e g ih => exact ih (h.trans (t.applyEvent_sameCpu e))

theorem State.takeInputs_nil {s : State} (h : s.inputs = []) : s.takeInputs = s := by
  simp only [State.takeInputs, h]

theorem State.takeInputs_cons {s : State} {g : List PlatformEvent} {rest : List (List PlatformEvent)} (h : s.inputs = g :: rest) :
    s.takeInputs = g.foldl State.applyEvent { s with inputs := rest } := by
  simp only [State.takeInputs, h]

theorem State.takeInputs_sameCpu (s : State) : s.SameCpu s.takeInputs := by
  cases h : s.inputs with
  | nil => rw [State.takeInputs_nil h]; exact s.sameCpu_inputs s.inputs
  | cons g rest => rw [State.takeInputs_cons h]; exact State.foldl_applyEvent_sameCpu g (s.sameCpu_inputs rest)

/-- Events leave the groups still to come and the OAM DMA's request alone, and only the reset signal sets `reset_pending`. -/
theorem State.foldl_applyEvent_requests (g : List PlatformEvent) (s : State) :
    (g.foldl State.applyEvent s).inputs = s.inputs ∧ (g.foldl State.applyEvent s).bus.dma.oam = s.bus.dma.oam ∧
    (g.foldl State.applyEvent s).resetPending = (decide (.reset ∈ g) || s.resetPending) := by
  induction g generalizing s with
  | nil => exact ⟨rfl, rfl, by simp⟩
  | cons e g ih =>
    obtain ⟨h1, h2, h3⟩ := ih (s.applyEvent e)
    rw [List.foldl_cons, h1, h2, h3]
    cases e <;> simp [State.applyEvent]

end Sys2Proof.Machine
end

section
/-! PROOFS. The statements of the family 20_memory.md. -/

namespace Sys2Proof.Proofs.MemoryMap

open Sys2Proof Sys2Proof.Machine

/-! ### Power-on and reset -/

/-- Settles O2: at power-on the stores are those given, and every device is at its default. -/
theorem resetStateMeetsInvariant : Obligations.ResetStateMeetsInvariant := by
  unfold Obligations.ResetStateMeetsInvariant
  have hpower : ∀ p : PowerOn, Memory.wf p.mem = true → (∀ c ∈ p.mem, c.1 < ramCells p.params.platform) →
      Memory.wf p.cart.rom = true → (∀ c ∈ p.cart.rom, c.1 < p.cart.info.romSize) →
      Memory.wf p.cart.work = true → (∀ c ∈ p.cart.work, c.1 < p.cart.info.ramSize) → (State.powerOn p).Inv := by
    intro p hmem hcells hrom hromCells hwork hworkCells
    refine ⟨?bus, fun _ => rfl, nofun⟩
    case bus =>
      exact {
        mem := hmem
        cells := hcells
        rom := hrom
        romCells := hromCells
        work := hwork
        workCells := hworkCells
        oam := rfl
        oamCells := nofun
        regs := rfl
        regCells := nofun
        scanline := Nat.zero_le _
        dot := Nat.zero_le _
        ctrl := fun _ => rfl
        mask := fun _ => rfl
        scrollX := fun _ => rfl
        scrollY := fun _ => rfl
        line := (Bool.and_false _).symm
        clock := rfl
        shift1 := Nat.zero_le _
        shift2 := Nat.zero_le _ }
  exact ⟨hpower {} rfl nofun rfl nofun rfl nofun, hpower⟩

/-- Settles O9: the step is `resetSequence`, which leaves no DMA request; its bus is reads only, from one on which the NMI latch and
the requests are cleared. -/
theorem resetSequenceLoadsVector : Obligations.ResetSequenceLoadsVector := by
  unfold Obligations.ResetSequenceLoadsVector
  intro s hf hr
  have hkeeps := s.takeInputs.resetSequence_keeps
  have hbus := resetBus_keeps s.takeInputs
  have hstep : step s = .next s.takeInputs.resetSequence := by
    rw [step_of_poll_reset hf (State.poll_reset hr), State.serviceDma_none hkeeps.dma]
  have hfatal : s.takeInputs.fatal = none := (State.takeInputs_fatal s).trans hf
  refine ⟨_, hstep, ?_⟩
  rw [State.resetSequence_eq] at hkeeps ⊢
  refine ⟨rfl, rfl, rfl, rfl, rfl, rfl, hfatal, rfl, hkeeps.dma, hkeeps, fun hc => ?nmi, ?cycles, ⟨rfl, rfl⟩, ?vector⟩
  case nmi =>
    have hctrl : (resetBus s.takeInputs).ppu.ctrl.written.getLsbD 7 = false := by rw [hbus.ctrl.written]; exact hc
    have hctrl' : ((resetBus s.takeInputs).read 0xFFFC).2.ppu.ctrl.written.getLsbD 7 = false := by
      rw [(Bus.read_keeps _ _).ctrl.written, hctrl]
    exact (Bus.read_nmi_disabled _ hctrl').trans (Bus.read_nmi_disabled _ hctrl)
  case cycles => simp only [Bus.read_cycles, resetBus_cycles]
  case vector =>
    intro m l hlow hhigh
    have hword := Bus.read_vector (b := resetBus s.takeInputs) (v := 0xFFFC) (by decide) (by decide) ((hbus.still _).trans hhigh)
    have hnext : (0xFFFC : Addr) + 1 = 0xFFFD := rfl
    rw [hnext, hbus.storage hlow, hbus.storage hhigh, resetBus_openBus] at hword
    exact hword

/-! ### Bus cycles, addresses and storage -/

/-- Settles O51: `Bus.tick`, field by field. -/
theorem nmiEdgeIsLatchedEachCycle : Obligations.NmiEdgeIsLatchedEachCycle := by
  unfold Obligations.NmiEdgeIsLatchedEachCycle
  refine ⟨fun b => ⟨b.tick_ppu, by rw [b.tick_apu], b.tick_cart, b.tick_cycles, fun hp => ?nmi⟩, fun b a v => ⟨rfl, rfl, rfl⟩⟩
  case nmi =>
    have hlevel : b.tickPlatform.nmiLevel = (b.tick.ppu.vblank && b.tick.ppu.ctrl.written.getLsbD 7) := by
      rw [Bus.tickPlatform_nmiLevel, hp, Bus.tick_ppu]; rfl
    rw [Bus.tick_nmiPending, Bus.tick_nmiLinePrev, hlevel]
    simp [and_assoc]

/-- Settles O40: page 0 is RAM, so the pointers of the indirect modes are the bytes of its cells. -/
theorem effectiveAddressOfModes : Obligations.EffectiveAddressOfModes := by
  unfold Obligations.EffectiveAddressOfModes
  intro cls s z a ram
  refine ⟨zeroPage_eq_ofNat z, ?zpX, ?zpY, rfl, ?absX, ?absY, ?indX, ?indY⟩
  case zpX => exact (zeroPage_eq_ofNat _).trans (by rw [BitVec.toNat_add])
  case zpY => exact (zeroPage_eq_ofNat _).trans (by rw [BitVec.toNat_add])
  case absX => exact (indexed_address _ _ _ _).trans (add_setWidth_eq_ofNat a s.x)
  case absY => exact (indexed_address _ _ _ _).trans (add_setWidth_eq_ofNat a s.y)
  case indX =>
    have hlow : (z + s.x).toNat = (z.toNat + s.x.toNat) % 256 := BitVec.toNat_add _ _
    have hhigh : (z + s.x + 1).toNat = (z.toNat + s.x.toNat + 1) % 256 := by simp
    rw [resolve_indX_address, hlow, hhigh]
    rfl
  case indY =>
    have hlow : ram z.toNat = (Memory.byte s.bus.mem z.toNat).toNat := by simp only [ram, Nat.mod_eq_of_lt z.isLt]
    have hhigh : (z + 1).toNat = (z.toNat + 1) % 256 := BitVec.toNat_add _ _
    rw [resolve_indY_address, add_setWidth_eq_ofNat, concat_toNat, hhigh, hlow]

/-- Settles O49: a read after a write compares the cells of the two addresses, which are the low 11 bits on the map of R83 and the
whole address on the flat platform. -/
theorem ramMirrorsHoldLastWrite : Obligations.RamMirrorsHoldLastWrite := by
  unfold Obligations.RamMirrorsHoldLastWrite
  refine ⟨fun b a k v hp ha hk => ?mirrors, fun b a hp ha => ?read, fun b a k v hp => ?flat, fun b hp => ?flatTick⟩
  case mirrors =>
    rw [Bus.read_write_ram v ((Bus.region_eq_ram hp).mpr ha) ((Bus.region_eq_ram hp).mpr hk), Bus.cell_nes hp, Bus.cell_nes hp]
  case read =>
    have hr : b.region a = .ram := (Bus.region_eq_ram hp).mpr ha
    have hread : (b.read a).2 = ((b.drive (b.read a).1).observe false a (b.read a).1).tick := by
      simp only [Bus.read, Bus.accessRead, Bus.answer_ram hr]
    refine ⟨by rw [Bus.read_ram b hr, Bus.cell_nes hp], hread, fun hq => ?_⟩
    rw [hread, Bus.observe_quiet false a _ (by exact hq)]
  case flat =>
    refine ⟨?_, by rw [Bus.read_ram b (Bus.region_flat hp a), Bus.cell_flat hp]⟩
    rw [Bus.read_write_ram v (Bus.region_flat hp a) (Bus.region_flat hp k), Bus.cell_flat hp, Bus.cell_flat hp]
    simp only [BitVec.toNat_inj]
  case flatTick =>
    have hlevel : b.tickPlatform.nmiLevel = false := Bus.nmiLevel_flat hp
    rw [Bus.tick_nmiPending, Bus.tick_nmiLinePrev, hlevel]
    exact ⟨Bool.or_false _, rfl, b.tick_mem, b.tick_cycles⟩

/-- Settles O50: by what answers each address, and by what a write reaches there. -/
theorem openBusAndIgnoredWrites : Obligations.OpenBusAndIgnoredWrites := by
  unfold Obligations.OpenBusAndIgnoredWrites
  refine ⟨fun b a hp h => ?undriven, fun b a hp hlow hhigh hreg => ?writeOnly, fun b a v => ?driven, fun b a v hs => ?stored,
    fun b a v hp h => Bus.write_unstored v hp h, fun b a v => (b.write_storesOnly a v).rom⟩
  case undriven =>
    have hread : b.read a = (b.openBus, (b.observe false a b.openBus).tick) := by
      simp only [Bus.read, Bus.accessRead, Bus.answer_undriven hp h]
    rw [hread]
    exact ⟨rfl, Bus.tick_openBus _⟩
  case writeOnly =>
    have hr : b.region a = .ppu := Bus.region_eq_ppu.mpr ⟨hp, hlow, hhigh⟩
    obtain ⟨n, hn⟩ := b.writeOnlyRead_state
    have hanswer : b.answer a = (b.writeOnlyRead.1, { b.drive b.writeOnlyRead.1 with freeCount := n }) := by
      rw [Bus.answer_ppu hr rfl, b.ppuRead_writeOnly hreg, hn]; rfl
    have hvalue : (b.read a).1 = b.writeOnlyRead.1 := by rw [Bus.read_fst, hanswer]
    have hstate : (b.read a).2 = ({ b.drive b.writeOnlyRead.1 with
        freeCount := n, cart := b.cart.observe false a b.writeOnlyRead.1 } : Bus).tick := by
      simp only [Bus.read, Bus.accessRead, hanswer]; rfl
    rw [hvalue, hstate, Bus.tick_openBus]
    exact ⟨fun h => by simp only [Bus.writeOnlyRead, h], fun v h => by simp only [Bus.writeOnlyRead, h], rfl, n, rfl⟩
  case driven =>
    obtain ⟨-, -, -, hopen, -⟩ := b.write_frame a v
    exact hopen
  case stored =>
    have hr : b.region a = .ram ∨ b.region a = .cart := by
      cases h : b.region a <;> simp_all [Bus.storage]
    rw [(Bus.read_getD hr).2, Bus.read_value hs]

/-! ### Devices -/

/-- Settles O53: by what the APU does with each register, and by the addresses an entry reads and writes. -/
theorem irqSourcesRaiseAndClear : Obligations.IrqSourcesRaiseAndClear := by
  unfold Obligations.IrqSourcesRaiseAndClear
  have h10 : ∀ (b : Bus) (v : Byte), b.params.platform = .nes →
      (b.write 0x4010 v).apu = { b.apu.write 0x10 v with clock := b.apu.clock + 1 } :=
    fun b v hp => Bus.write_apu v hp rfl (by decide) (by decide) (by decide)
  have h15 : ∀ (b : Bus) (v : Byte), b.params.platform = .nes →
      (b.write 0x4015 v).apu = { b.apu.write 0x15 v with clock := b.apu.clock + 1 } :=
    fun b v hp => Bus.write_apu v hp rfl (by decide) (by decide) (by decide)
  have h17 : ∀ (b : Bus) (v : Byte), b.params.platform = .nes →
      (b.write 0x4017 v).apu = { b.apu.write 0x17 v with clock := b.apu.clock + 1 } :=
    fun b v hp => Bus.write_apu v hp rfl (by decide) (by decide) (by decide)
  refine ⟨fun b v hp => ?registers, fun b v hp => ?held, fun s => ⟨rfl, rfl⟩, fun s l => rfl, fun s k => ?entry,
    fun s k => ?interrupt⟩
  case registers =>
    rw [h17 b v hp, h15 b v hp, h10 b v hp]
    exact ⟨Bus.read_status hp, (b.read_keeps _).dmcIrq, by simp [Apu.write]⟩
  case held =>
    rw [h17 b v hp, h10 b v hp]
    exact ⟨Memory.byte_write_same _ _ _, Memory.byte_write_same _ _ _⟩
  case entry =>
    obtain ⟨hframe, hdmc, hmap⟩ := s.takeException_irq k
    exact ⟨hframe, hdmc, fun hq => congrArg MapperState.irq (hmap hq)⟩
  case interrupt =>
    have hfetch := s.dummyFetch2_keeps
    obtain ⟨hframe, hdmc, hmap⟩ := s.dummyFetch.dummyFetch.takeException_irq k
    refine ⟨hdmc.trans hfetch.dmcIrq, fun hpc => hframe.trans ?_, fun hpc hp => hframe.trans ?_, fun hq => ?_⟩
    · exact (Bus.read_frameIrq _ hpc).trans (Bus.read_frameIrq _ hpc)
    · simp only [State.dummyFetch_bus, State.dummyFetch_pc, hpc]
      exact Bus.read_status ((congrArg Params.platform (Bus.dummyRead_params _ _)).trans hp)
    · rw [State.interruptEntry, hmap (hfetch.quiet.trans hq), hfetch.cart hq]

/-- Settles O54: the transfers one after the other, each the read of a byte of the page and its write to OAMDATA. -/
theorem oamDmaCopiesPage : Obligations.OamDmaCopiesPage := by
  unfold Obligations.OamDmaCopiesPage
  intro b page hp align
  have hidle : b.Keeps (Bus.idle align b) := (Bus.idle_spec align b).1
  have hstart : (Bus.idle align b).params.platform = .nes := (congrArg Params.platform hidle.params).trans hp
  obtain ⟨r, hr, hdma, honly, hcycles⟩ := Bus.oamDma_spec page hp
  have halign : b.oamAlign = align := rfl
  rw [halign] at hr hcycles
  have hcopied : ∀ i : Byte, Memory.byte (b.oamDma page).ppu.oam (b.ppu.oamAddr + i).toNat =
      ((Bus.oamRun page (Bus.idle align b) i.toNat).read (concat page i)).1 := by
    intro i
    rw [hdma, hr, ← hidle.oamAddr]
    exact Bus.oamRun_copied page hstart (Nat.le_refl _) i i.isLt
  refine ⟨hdma ▸ hcycles, fun hdefault => ?default, hdma ▸ honly.mem, hdma ▸ honly.rom, hdma ▸ honly.work, hdma ▸ honly.cart,
    b.oamDma_dma page, fun c h0 hc => ?sequence, fun i v hs hstill => ?stored⟩
  case default =>
    have hcyclesDma : (b.oamDma page).cycles = b.cycles + 512 + align := hdma ▸ hcycles
    simp only [hcyclesDma, align, hdefault]
    split <;> rfl
  case sequence =>
    have hrun : c = Bus.oamRun page (Bus.idle align b) := by rw [← h0]; exact funext (Bus.eq_oamRun hc)
    have hlast : r = c 256 := by rw [hr, hrun]
    exact ⟨hlast ▸ hdma, fun i => by rw [hcopied, hrun]⟩
  case stored =>
    obtain ⟨hbefore, -⟩ := Bus.oamRun_only page hstart i.toNat
    rw [hcopied]
    exact Bus.read_value (((hidle.oamOnly.trans hbefore).storage hstill).trans hs)

/-- Settles O56: what each register's handler does to the PPU, and what a dot does to the registers that can be deferred. -/
theorem ppuStatusAndWriteLatch : Obligations.PpuStatusAndWriteLatch := by
  unfold Obligations.PpuStatusAndWriteLatch
  have hppu : ∀ (b : Bus) (a : Addr), b.params.platform = .nes → 0x2000 ≤ a.toNat → a.toNat < 0x4000 → b.region a = .ppu :=
    fun b a hp hlow hhigh => Bus.region_eq_ppu.mpr ⟨hp, hlow, hhigh⟩
  refine ⟨fun b a v hp hlow hhigh => ?writes, fun p => ?dot, fun b a hp hlow hhigh hr => ?status, fun b a hp hlow hhigh hr => ?data,
    fun b a hp hlow hhigh hr => ?others, fun s hp => ?inc⟩
  case writes =>
    have hregion := hppu b a hp hlow hhigh
    refine ⟨Config.freeDefers b.freeCount, ?_⟩
    intro w
    refine ⟨fun h => ?ctrl, fun h => ?mask, fun h => Bus.accessWrite_ppu hregion h v, fun h => ?oamAddr, fun h => ?oamData,
      fun h => ⟨_, Bus.accessWrite_ppu hregion h v⟩, fun h => ?scroll, fun h => ?addr, fun h => Bus.write_writeLatch v hregion h⟩
    case ctrl =>
      have hw : (b.accessWrite a v).ppu = { b.ppu with ctrl := w b.ppu.ctrl } := Bus.accessWrite_ppu hregion h v
      refine ⟨hw, ?_, ?_⟩
      · simp only [Bus.write_ppu, Ppu.advance_ctrl_written, hw, w]
      · simp only [Bus.nmiLevel, Bus.accessWrite_params, hp, hw, Ppu.nmiLevel, w, decide_true, Bool.true_and]
    case mask =>
      have hw : (b.accessWrite a v).ppu = { b.ppu with mask := w b.ppu.mask } := Bus.accessWrite_ppu hregion h v
      exact ⟨hw, by simp only [Bus.write_ppu, Ppu.advance_mask_written, hw, w]⟩
    case oamAddr =>
      have hw : (b.accessWrite a v).ppu = { b.ppu with oamAddr := v } := Bus.accessWrite_ppu hregion h v
      exact ⟨hw, by simp only [Bus.write_ppu, Ppu.advance_oamAddr, hw]⟩
    case oamData => exact ⟨_, Bus.accessWrite_ppu hregion h v, fun k => Memory.byte_write _ _ _ _⟩
    case scroll =>
      rw [Bus.accessWrite_ppu hregion h, Bus.ppuWrite]
      by_cases hlatch : b.ppu.writeLatch = true <;> simp only [Bus.drive_ppu, hlatch] <;> rfl
    case addr =>
      rw [Bus.accessWrite_ppu hregion h, Bus.ppuWrite]
      by_cases hlatch : b.ppu.writeLatch = true <;> simp only [Bus.drive_ppu, hlatch] <;> rfl
  case dot =>
    obtain ⟨hctrl, hmask, hscrollX, hscrollY, haddr⟩ := p.advance_rests
    refine ⟨fun r hr => ?_, haddr.cases, fun hs hd => ?_⟩
    · simp only [List.mem_cons, List.not_mem_nil, or_false] at hr
      rcases hr with rfl | rfl | rfl | rfl
      · exact hctrl.cases
      · exact hmask.cases
      · exact hscrollX.cases
      · exact hscrollY.cases
    · simpa only [Ppu.holds, Bool.or_eq_false_iff, and_assoc] using Ppu.advance_frameStart hs hd
  case status =>
    obtain ⟨hvalue, hstate⟩ := Bus.accessRead_ppu (hppu b a hp hlow hhigh) hr
    obtain ⟨h7, h6, h5⟩ := b.ppu.status_bits b.drawByte.1
    rw [hvalue, hstate]
    exact ⟨h7, h6, h5, rfl⟩
  case data =>
    obtain ⟨hvalue, hstate⟩ := Bus.accessRead_ppu (hppu b a hp hlow hhigh) hr
    exact ⟨hvalue, _, _, hstate⟩
  case others =>
    obtain ⟨-, hstate⟩ := Bus.accessRead_ppu (hppu b a hp hlow hhigh) rfl
    rw [hstate, b.ppuRead_ppu hr]
  case inc =>
    exact ⟨_, exec_eq_run _ s, rmwBus_ppuAddr _ hp⟩

/-- Settles O59: a read of either port shifts out one bit of what the write latched, and no new snapshot changes that. -/
theorem controllersShiftOutSnapshot : Obligations.ControllersShiftOutSnapshot := by
  unfold Obligations.ControllersShiftOutSnapshot
  refine ⟨fun b v k hp hv hk => ?held, fun b v u k x y c d hp hv hu hk => ?released⟩
  case held =>
    obtain ⟨h1, h2⟩ := Bus.write_strobe v hp
    rw [hv, if_pos rfl] at h1 h2
    have hstart : (b.write 0x4016 v).params.platform = .nes := by rw [Bus.write_params, hp]
    refine ⟨Bus.serial_pad1.read_bit (c := fun n => (fun e : Bus => (e.read 0x4016).2)^[n] (b.write 0x4016 v)) hstart
        (congrArg Controller.shift h1) (fun n => ?_) (fun n => ?_) hk,
      Bus.serial_pad2.read_bit (c := fun n => (fun e : Bus => (e.read 0x4017).2)^[n] (b.write 0x4016 v)) hstart
        (congrArg Controller.shift h2) (fun n => ?_) (fun n => ?_) hk⟩ <;>
      simp only [Function.iterate_succ_apply', Bus.read_params]
  case released =>
    intro snap start hc0 hc hd0 hd
    obtain ⟨h1, h2⟩ := Bus.write_strobe v hp
    rw [hv, if_pos rfl] at h1 h2
    have hparams : ∀ e n, (snap e n).params = e.params := fun _ _ => rfl
    have hshift1 : ∀ e n, (snap e n).pad1.shift = e.pad1.shift := fun _ _ => rfl
    have hshift2 : ∀ e n, (snap e n).pad2.shift = e.pad2.shift := fun _ _ => rfl
    have hsnap : (snap (b.write 0x4016 v) 0).params.platform = .nes := by rw [hparams, Bus.write_params, hp]
    obtain ⟨k1, k2⟩ := Bus.write_strobe u hsnap
    rw [hu, if_neg Bool.false_ne_true] at k1 k2
    have hstart : start.params.platform = .nes := by simp only [start, Bus.write_params, hsnap]
    refine ⟨Bus.serial_pad1.read_bit (by rw [hc0, hstart]) ?_ (fun n => by rw [hc, hparams, Bus.read_params])
        (fun n => by rw [hc, hshift1]) hk,
      Bus.serial_pad2.read_bit (by rw [hd0, hstart]) ?_ (fun n => by rw [hd, hparams, Bus.read_params])
        (fun n => by rw [hd, hshift2]) hk⟩
    · rw [hc0, k1, hshift1, h1]; rfl
    · rw [hd0, k2, hshift2, h2]; rfl

/-! ### The mapper and the inputs -/

/-- Settles O60: the translation of R104, the window a bank-select register changes, and the mapper's part of a bus cycle. -/
theorem mapperTranslatesAndObserves : Obligations.MapperTranslatesAndObserves := by
  unfold Obligations.MapperTranslatesAndObserves
  have hcovers : ∀ {l : List PrgWindow} {a : Addr}, (∀ x ∈ l, ¬ (x.first ≤ a.toNat ∧ a.toNat ≤ x.last)) →
      ∀ x ∈ l, inWindow x a = false := fun h x hx => by rw [← Bool.not_eq_true, inWindow_iff]; exact h x hx
  refine ⟨fun b a hp ha => ?read, fun i a pre post w hpre => ?translate,
    fun b a v rs ss r pre post w hp ha hm hrest hlow hhigh hws hindex hram => ?select, Bus.read_cart, Bus.write_cart,
    fun c a v w r m n => ?mapper⟩
  case read =>
    have hr : b.region a = .cart := Bus.region_eq_cart.mpr ⟨hp, ha⟩
    rw [(Bus.read_getD (.inr hr)).1]
    simp only [Bus.storage, hr, Cartridge.cpuRead, Cartridge.target]
    cases prgTranslate b.cart.map.windows b.cart.info a with
    | none => rfl
    | some cell => cases cell <;> rfl
  case translate =>
    exact ⟨prgTranslate_none (hcovers hpre) i, fun hf hl => prgTranslate_first (hcovers hpre) (inWindow_iff.mpr ⟨hf, hl⟩) i⟩
  case select =>
    have hregion : b.region a = .cart := Bus.region_eq_cart.mpr ⟨hp, ha⟩
    have hr : inRegister r a = true := inRegister_iff.mpr ⟨hlow, hhigh⟩
    have hothers : ∀ q ∈ rs ++ ss, inRegister q a = false := fun q hq => by
      rw [← Bool.not_eq_true, inRegister_iff]; exact hrest q hq
    refine ⟨Bus.write_selects hregion hm hr hothers hws hindex v, fun k hk hpre hkLow hkHigh hsize => ?_⟩
    intro m
    have hstorage : (b.write a v).storage k = some m := Bus.write_selects_storage hregion hm hr hothers hws hindex v
      (Bus.region_eq_cart.mpr ⟨hp, hk⟩) (hcovers hpre) (inWindow_iff.mpr ⟨hkLow, hkHigh⟩) hram hsize
    have hquiet : (b.write a v).cart.quiet = true := by
      rw [Cartridge.quiet_congr (b.write_storesOnly a v).mapper, Cartridge.quiet_iff, hm]; exact nofun
    exact ⟨Bus.read_value hstorage, Bus.dmcDma_value hstorage (Bus.still_iff.mpr (.inr hquiet))⟩
  case mapper =>
    obtain ⟨-, -, -, -, htick⟩ := c.tick_keeps m n r
    obtain ⟨-, -, -, -, hobserve⟩ := c.observe_keeps w a v
    obtain ⟨-, -, -, -, hwrite⟩ := c.cpuWrite_frame a v
    refine ⟨c.observe_windows w a v, fun h => ?_, fun h => ?_, fun h => ⟨?_, ?_, ?_⟩⟩
    · have hq := c.quiet_iff.mpr h
      exact ⟨hobserve hq, htick hq⟩
    · simp only [hwrite, Cartridge.afterWrite, h]
    · simp only [hwrite, Cartridge.afterWrite, h]
    · simp only [Cartridge.tick, h]
    · simp only [Cartridge.observe, h]

/-- Settles O58: each event leaves the CPU and storage alone, so each group does; what the rest of the statement names are the
events one by one. -/
theorem inputsLeaveTheCpuAlone : Obligations.InputsLeaveTheCpuAlone := by
  unfold Obligations.InputsLeaveTheCpuAlone
  refine ⟨fun s => ?frame, fun s h => State.takeInputs_nil h, fun s e rest h => State.takeInputs_cons h,
    fun s g rest h => ?group, fun s g a rest h => ?fetch, fun s a v => ⟨rfl, rfl, rfl, rfl⟩⟩
  case frame =>
    have h := s.takeInputs_sameCpu
    exact ⟨h.a, h.x, h.y, h.sp, h.pc, h.flags, h.fatal, h.cycles, h.openBus, h.nmiPending, h.params, h.mem, h.rom, h.work,
      h.storage⟩
  case group =>
    obtain ⟨hinputs, -, hreset⟩ := State.foldl_applyEvent_requests g { s with inputs := rest }
    rw [State.takeInputs_cons h, hinputs, hreset]
    exact ⟨rfl, fun hg => by simp [hg], fun hg => by simp [hg]⟩
  case fetch =>
    obtain ⟨-, hoam, -⟩ := State.foldl_applyEvent_requests g { s with inputs := rest }
    rw [State.takeInputs_cons h, List.foldl_append]
    simp only [List.foldl_cons, List.foldl_nil, State.applyEvent, hoam]

end Sys2Proof.Proofs.MemoryMap
end

section
/-! SUPPORT. The decoder as the inverse of the encoder, the refused rows, and the read that clears the PPU's write latch: the lemmas
behind the statements of 30_encoding.md. -/

namespace Sys2Proof

open Machine

/-! ### The decoder (30_encoding.md R140, R142, R151) -/

/-- No opcode has more than two operand bytes (R140). -/
theorem operandBytes_cases {op : Byte} {l : List Byte} (h : (instrOf op 0 0).length = 1 + l.length) :
    l = [] ∨ (∃ b1, l = [b1]) ∨ ∃ b1 b2, l = [b1, b2] := by
  rcases Instr.length_cases (instrOf op 0 0) with h1 | h2 | h3
  · exact .inl (List.length_eq_zero_iff.mp (by omega))
  · exact .inr (.inl (List.length_eq_one_iff.mp (by omega)))
  · exact .inr (.inr (List.length_eq_two.mp (by omega)))

/-- The decoder takes as many operand bytes as the opcode says, and hands them to the row. -/
theorem decode_append {op : Byte} {l : List Byte} (h : (instrOf op 0 0).length = 1 + l.length) (rest : List Byte) :
    decode (op :: (l ++ rest)) = .instr (instrOf op (l.getD 0 0) (l.getD 1 0)) rest := by
  rcases operandBytes_cases h with rfl | ⟨b1, rfl⟩ | ⟨b1, b2, rfl⟩
  · exact decode_length_one h rest
  · exact decode_length_two h b1 rest
  · exact decode_length_three h b1 b2 rest

/-- What decodes is an opcode, its operand bytes, and the rest. -/
theorem decode_cases {bytes rest : List Byte} {i : Instr} (h : decode bytes = .instr i rest) :
    ∃ op l, bytes = op :: (l ++ rest) ∧ (instrOf op 0 0).length = 1 + l.length ∧ i = instrOf op (l.getD 0 0) (l.getD 1 0) := by
  cases bytes with
  | nil => cases h
  | cons op tail =>
    simp only [decode] at h
    split at h
    · next hlen => cases h; exact ⟨op, [], rfl, hlen, rfl⟩
    · next b1 _ hlen => cases h; exact ⟨op, [b1], rfl, hlen, rfl⟩
    · next b1 b2 _ hlen => cases h; exact ⟨op, [b1, b2], rfl, hlen, rfl⟩
    · cases h

/-- The encoding of the row an opcode selects, from operand bytes as many as the opcode says. -/
theorem encode_instrOf_getD {op : Byte} {l : List Byte} (h : (instrOf op 0 0).length = 1 + l.length) :
    encode (instrOf op (l.getD 0 0) (l.getD 1 0)) = op :: l := by
  rw [encode_instrOf, h]
  rcases operandBytes_cases h with rfl | ⟨b1, rfl⟩ | ⟨b1, b2, rfl⟩ <;> rfl

/-- The decoder and the encoder are inverse to each other. -/
theorem decode_eq_instr_iff {bytes rest : List Byte} {i : Instr} : decode bytes = .instr i rest ↔ bytes = encode i ++ rest := by
  constructor
  · intro h
    obtain ⟨op, l, rfl, hlen, rfl⟩ := decode_cases h
    rw [encode_instrOf_getD hlen, List.cons_append]
  · rintro rfl
    rw [encode, List.cons_append, decode_append (instrOf_length i 0 0), instrOf_shape_bytes]

/-- Three bytes are enough for any opcode (R142). -/
theorem decode_total (op b1 b2 : Byte) (rest : List Byte) : ∃ i r, decode (op :: b1 :: b2 :: rest) = .instr i r := by
  rcases Instr.length_cases (instrOf op 0 0) with h | h | h
  · exact ⟨_, _, decode_length_one h _⟩
  · exact ⟨_, _, decode_length_two h _ _⟩
  · exact ⟨_, _, decode_length_three h _ _ _⟩

/-- The opcode of what decodes is the first byte (R141). -/
theorem decode_opcode {op : Byte} {tail rest : List Byte} {i : Instr} (h : decode (op :: tail) = .instr i rest) : i.opcode = op := by
  rw [decode_eq_instr_iff, encode, List.cons_append] at h
  exact (List.cons.inj h).1.symm

/-! ### The refused rows (30_encoding.md R150, 60_exceptions.md R420) -/

/-- The row of a refused opcode has no operand bytes, so the opcode is the whole of it. -/
theorem Instr.shape_of_opcode_refused {i : Instr} (h : i.opcode ∈ refusedOpcodes) : i.shape = .refused i.opcode := by
  obtain ⟨hlen, hshape⟩ := instrOf_refused h
  have hbytes : i.shape.bytes = [] := by
    rw [instrOf_length, Instr.length] at hlen
    exact List.length_eq_zero_iff.mp (by omega)
  have hrow := instrOf_shape_bytes i 0 0
  rw [hbytes] at hrow
  exact (congrArg Instr.shape hrow).symm.trans hshape

/-- An instruction is not well-formed if and only if its row is a refused one. -/
theorem Instr.wellFormed_eq_false_iff (i : Instr) : i.wellFormed = false ↔ ∃ op, i.shape = .refused op := by
  have hmem : i.wellFormed = false ↔ i.opcode ∈ refusedOpcodes := by simp [Instr.wellFormed, admitted]
  rw [hmem]
  constructor
  · exact fun h => ⟨i.opcode, Instr.shape_of_opcode_refused h⟩
  · rintro ⟨op, h⟩
    obtain ⟨hop, hrefused⟩ := Instr.shape_refused h
    rwa [hop]

namespace Machine

/-- The fetch of a refused opcode is one cycle (70_reset_and_hazards.md R541). -/
theorem State.fetchInstr_refused {s : State} (h : (s.bus.read s.pc).1 ∈ refusedOpcodes) :
    s.fetchInstr = (instrOf (s.bus.read s.pc).1 0 0, { s with bus := (s.bus.read s.pc).2, pc := s.pc + 1 }) :=
  if_pos (instrOf_refused h).1.le

/-! ### The read of PPUSTATUS (20_memory.md R85, R92) -/

theorem Bus.read_ppuStatus_writeLatch {b : Bus} (hp : b.params.platform = .nes) : (b.read 0x2002).2.ppu.writeLatch = false := by
  have hregion : b.region 0x2002 = .ppu := Bus.region_eq_ppu.mpr ⟨hp, by decide, by decide⟩
  obtain ⟨-, hstate⟩ := Bus.accessRead_ppu hregion (r := 2) (by decide)
  simp only [Bus.read_ppu, Ppu.advance_writeLatch, hstate]
  rfl

end Machine
end Sys2Proof
end

section
/-! PROOFS. The statements of the family 30_encoding.md. -/

namespace Sys2Proof.Proofs.Encoding

open Sys2Proof Sys2Proof.Machine

/-- Settles O44: one direction of `decode_eq_instr_iff`. -/
theorem decodeOfEncodeIsInstruction : Obligations.DecodeOfEncodeIsInstruction := by
  unfold Obligations.DecodeOfEncodeIsInstruction
  exact fun i rest => decode_eq_instr_iff.mpr rfl

/-- Settles O7: a refused row runs as `raiseIllegal`, and its fetch is the opcode's cycle alone. -/
theorem refusedOpcodeIsFatal : Obligations.RefusedOpcodeIsFatal := by
  unfold Obligations.RefusedOpcodeIsFatal
  refine ⟨fun i op s h => ?exec, fun s op hf hp hop hread => ?step⟩
  case exec =>
    obtain ⟨hopcode, hrefused⟩ := Instr.shape_refused h
    exact ⟨hopcode, hrefused, by rw [exec_eq_run, h]; rfl⟩
  case step =>
    subst hread
    obtain ⟨-, hshape⟩ := instrOf_refused hop
    rw [step_of_poll_instruction hf hp, State.fetchInstr_refused hop, exec_eq_run, hshape, finishInstr_next]
    simp [Shape.run, State.raiseIllegal]

/-- Settles O37: a NOP's run is its reads. -/
theorem nopsOnlyRead : Obligations.NopsOnlyRead := by
  unfold Obligations.NopsOnlyRead
  refine ⟨fun i s h => ⟨?implied, Bus.dummyRead_keeps _ _⟩, fun i o s h => ⟨?read, readOperand_keeps o s⟩,
    fun s hp => ⟨_, exec_eq_run _ s, Bus.read_ppuStatus_writeLatch hp⟩⟩
  case implied => rw [exec_eq_run, h]; rfl
  case read => rw [exec_eq_run, h]; rfl

/-- Settles O45: totality, the other direction of `decode_eq_instr_iff`, the refused rows, and a count over the 256 opcodes. -/
theorem decoderIsTotalAndInverse : Obligations.DecoderIsTotalAndInverse := by
  unfold Obligations.DecoderIsTotalAndInverse
  refine ⟨fun op b1 b2 rest => ?total, fun bytes rest i => decode_eq_instr_iff.mp, Instr.wellFormed_eq_false_iff, ?count⟩
  case total =>
    obtain ⟨i, r, h⟩ := decode_total op b1 b2 rest
    exact ⟨i, r, h, decode_opcode h⟩
  case count => decide +kernel

/-- Settles O46: each word is the encoding of its instruction. -/
theorem decodeSampleWords : Obligations.DecodeSampleWords := by
  unfold Obligations.DecodeSampleWords
  simp only [decode_eq_instr_iff, List.append_nil]
  decide

end Sys2Proof.Proofs.Encoding
end

section
/-! SUPPORT. The RMW access, the branch, the indirect jump and the IRQ line: the lemmas behind the statements of
40_addressing_modes.md. -/

namespace Sys2Proof.Machine

/-- An instruction answers the state its shape gives. -/
theorem exec_of_shape {i : Instr} {sh : Shape} (h : i.shape = sh) (s : State) : exec i s = .next (sh.run s) := by
  rw [exec_eq_run, h]

/-! ### The RMW access (40_addressing_modes.md R181) -/

/-- The result's write is the last cycle, so its byte is the last one driven. -/
theorem rmwBus_openBus (e : EaMode) (r : Byte) (s : State) : (rmwBus e r s).openBus = r := by
  unfold rmwBus
  obtain ⟨-, -, -, hopen, -⟩ := Bus.write_frame _ _ _
  exact hopen

/-- Every address that names a cell in which a byte is kept reads the result of the access to that cell. -/
theorem rmwBus_storage_sameCell {e : EaMode} {s : State} {k : Addr} (r : Byte)
    (hk : s.bus.sameCell k (resolve .rmw e s).1 = true) (hw : s.bus.writable (resolve .rmw e s).1 = true) :
    (rmwBus e r s).storage k = some r := by
  have hread := (resolve_keeps .rmw e s).trans (Bus.read_keeps _ (resolve .rmw e s).1)
  have hwRead := hread.writable hw
  refine Bus.write_storage_same r (Bus.write_writable _ hwRead) ?_
  rw [Bus.write_sameCell _ hwRead, hread.sameCell hw, hk]

/-! ### Branches (45_control_transfer.md R320) -/

/-- The bus after a branch to `t`: no cycle if it is not taken, a read of PC if it is, and one more read if it leaves the page. -/
def branchBus (taken : Bool) (t : Addr) (s : State) : Bus :=
  if taken = true then
    if hi t = hi s.pc then s.bus.dummyRead s.pc else (s.bus.dummyRead s.pc).dummyRead (concat (hi s.pc) (lo t))
  else s.bus

/-- A branch, whole. -/
theorem branch_eq (taken : Bool) (d : Byte) (s : State) :
    branch taken d s = { s with
      bus := branchBus taken (s.pc + sext8 d) s
      pc := if taken = true then s.pc + sext8 d else s.pc } := by
  cases taken with
  | false => rfl
  | true =>
    by_cases hpage : hi (s.pc + sext8 d) = hi s.pc
    · simp only [branch, branchBus, hpage, if_true]; rfl
    · simp only [branch, branchBus, hpage, if_true, if_false]; rfl

theorem branchBus_keeps (taken : Bool) (t : Addr) (s : State) : s.bus.Keeps (branchBus taken t s) := by
  unfold branchBus
  split
  · split
    · exact Bus.dummyRead_keeps _ _
    · exact (Bus.dummyRead_keeps _ _).trans (Bus.dummyRead_keeps _ _)
  · exact Bus.Keeps.refl _

theorem branchBus_cycles (taken : Bool) (t : Addr) (s : State) :
    (branchBus taken t s).cycles = s.bus.cycles + (if taken = true then (if hi t = hi s.pc then 1 else 2) else 0) := by
  unfold branchBus
  split
  · split <;> simp
  · rfl

/-! ### The pointer of JMP indirect (R193) -/

/-- The address after `a` in the page of `a`, as a number. -/
theorem concat_hi_lo_add_one (a : Addr) :
    concat (hi a) (lo a + 1) = BitVec.ofNat 16 (a.toNat / 256 * 256 + (a.toNat + 1) % 256) := by
  have hone : (1 : Byte).toNat = 1 := rfl
  have hlt := a.isLt
  apply BitVec.eq_of_toNat_eq
  rw [concat_toNat, hi_toNat, BitVec.toNat_add, lo_toNat, BitVec.toNat_ofNat, hone]
  omega

/-! ### The IRQ line (60_exceptions.md R430, R431) -/

theorem Bus.irqLine_iff (b : Bus) :
    b.irqLine = true ↔ b.apu.frameIrq = true ∨ b.apu.dmcIrq = true ∨ b.cart.map.irq = true := by
  simp only [Bus.irqLine, Bool.or_eq_true, or_assoc]

/-- The boundary takes the IRQ if and only if nothing of higher priority is pending, I is clear and the line is asserted. -/
theorem State.poll_eq_irq_iff (s : State) :
    s.poll = .irq ↔ s.resetPending = false ∧ s.bus.nmiPending = false ∧ s.flags.i = false ∧ s.bus.irqLine = true := by
  cases hr : s.resetPending with
  | true => simp [State.poll_reset hr]
  | false =>
    cases hn : s.bus.nmiPending with
    | true => simp [State.poll_nmi hr hn]
    | false => simp [State.poll, hr, hn, and_comm]

end Sys2Proof.Machine
end

section
/-! PROOFS. The statements of the family 40_addressing_modes.md. -/

namespace Sys2Proof.Proofs.AddressingModes

open Sys2Proof Sys2Proof.Machine

/-! ### Branches and jumps -/

/-- Settles O17: each row runs `branch` on the flag it tests, whose effect is `branch_eq`. -/
theorem branchesTestTheirFlag : Obligations.BranchesTestTheirFlag := by
  unfold Obligations.BranchesTestTheirFlag
  intro d s p hp t b
  have hexec : exec p.1 s = .next (branch p.2 d s) := by
    simp only [List.mem_cons, List.not_mem_nil, or_false] at hp
    rcases hp with rfl | rfl | rfl | rfl | rfl | rfl | rfl | rfl <;> rfl
  have ht : t = s.pc + sext8 d := ofInt_sext8 s.pc d
  refine ⟨?effect, fun hnot => by rw [hexec, hnot]; rfl, branchBus_keeps p.2 t s, branchBus_cycles p.2 t s⟩
  case effect =>
    rw [hexec, branch_eq, ← ht]
    rfl

/-- Settles O18: the two reads of the pointer, whose second address is `concat_hi_lo_add_one`'s. -/
theorem jumpsLoadPc : Obligations.JumpsLoadPc := by
  unfold Obligations.JumpsLoadPc
  intro a s
  refine ⟨rfl, rfl, rfl, ?_⟩
  intro q
  have hq : concat (hi a) (lo a + 1) = q := concat_hi_lo_add_one a
  refine ⟨((s.bus.read a).2.read q).2, concat ((s.bus.read a).2.read q).1 (s.bus.read a).1,
    (Bus.read_keeps _ _).trans (Bus.read_keeps _ _), by simp only [Bus.read_cycles], ?exec, rfl, rfl, fun l h hl hh hstill => ?stored⟩
  case exec => rw [← hq]; rfl
  case stored => rw [Bus.read_value hl, Bus.read_value ((Bus.read_storage a hstill).trans hh)]

/-! ### The RMW class and the accumulator -/

/-- Settles O32: `Modify` with the byte plus or minus 1. -/
theorem memoryIncrementDecrement : Obligations.MemoryIncrementDecrement := by
  unfold Obligations.MemoryIncrementDecrement
  intro i e s m f
  refine ⟨fun h => ⟨?inc, rmwBus_storesOnly _ _ _⟩, fun h => ⟨?dec, rmwBus_storesOnly _ _ _⟩⟩
  case inc => exact exec_of_shape h s
  case dec => exact exec_of_shape h s

/-- Settles O34: `Modify` with each shift, in numbers. -/
theorem memoryShiftsRotate : Obligations.MemoryShiftsRotate := by
  unfold Obligations.MemoryShiftsRotate
  intro i e s m f
  refine ⟨fun h => ⟨?asl, rmwBus_storesOnly _ _ _⟩, fun h => ⟨?lsr, rmwBus_storesOnly _ _ _⟩,
    fun h => ⟨?rol, rmwBus_storesOnly _ _ _⟩, fun h => ⟨?ror, rmwBus_storesOnly _ _ _⟩⟩
  case asl => simp only [exec_of_shape h, Shape.run, RmwOp.run, opAsl, modifyOperand_eq, shiftLeft_eq, m, f]
  case lsr => simp only [exec_of_shape h, Shape.run, RmwOp.run, opLsr, modifyOperand_eq, shiftRight_eq, m, f]
  case rol => simp only [exec_of_shape h, Shape.run, RmwOp.run, opRol, modifyOperand_eq, rotateLeft_eq, m, f]
  case ror => simp only [exec_of_shape h, Shape.run, RmwOp.run, opRor, modifyOperand_eq, rotateRight_eq, m, f]

/-- Settles O35: the read of PC, then each shift of A, in numbers. -/
theorem accumulatorShiftsRotate : Obligations.AccumulatorShiftsRotate := by
  unfold Obligations.AccumulatorShiftsRotate
  intro s m b f
  refine ⟨Bus.dummyRead_keeps _ _, Bus.dummyRead_cycles _ _, ?asl, ?lsr, ?rol, ?ror⟩
  case asl => simp only [exec_eq_run, Instr.shape, Shape.run, AccOp.run, opAslAcc, shiftLeft_eq, m, f]; rfl
  case lsr => simp only [exec_eq_run, Instr.shape, Shape.run, AccOp.run, opLsrAcc, shiftRight_eq, m, f]; rfl
  case rol => simp only [exec_eq_run, Instr.shape, Shape.run, AccOp.run, opRolAcc, rotateLeft_eq, m, f]; rfl
  case ror => simp only [exec_eq_run, Instr.shape, Shape.run, AccOp.run, opRorAcc, rotateRight_eq, m, f]; rfl

/-- Settles O38: `Modify` with each shift, then the logic. -/
theorem shiftThenLogic : Obligations.ShiftThenLogic := by
  unfold Obligations.ShiftThenLogic
  intro i e s m f
  refine ⟨fun h => ⟨?slo, rmwBus_storesOnly _ _ _⟩, fun h => ⟨?rla, rmwBus_storesOnly _ _ _⟩,
    fun h => ⟨?sre, rmwBus_storesOnly _ _ _⟩⟩
  case slo => simp only [exec_of_shape h, Shape.run, RmwOp.run, opSlo, modifyOperand_eq, shiftLeft_eq, Flags.setNZ, m, f]
  case rla => simp only [exec_of_shape h, Shape.run, RmwOp.run, opRla, modifyOperand_eq, rotateLeft_eq, Flags.setNZ, m, f]
  case sre => simp only [exec_of_shape h, Shape.run, RmwOp.run, opSre, modifyOperand_eq, shiftRight_eq, Flags.setNZ, m, f]

/-- Settles O39: `Modify`, then the arithmetic on its result. -/
theorem rmwThenArithmetic : Obligations.RmwThenArithmetic := by
  unfold Obligations.RmwThenArithmetic
  intro i e s m ror q d
  refine ⟨fun h => ⟨?rra, rmwBus_storesOnly _ _ _⟩, fun h => ⟨?dcp, rmwBus_storesOnly _ _ _⟩,
    fun h => ⟨?isb, rmwBus_storesOnly _ _ _⟩⟩
  case rra =>
    simp only [exec_of_shape h, Shape.run, RmwOp.run, opRra, modifyOperand_eq, rotateRight_eq, m, ror, q]
    rfl
  case dcp => exact exec_of_shape h s
  case isb => exact exec_of_shape h s

/-- Settles O41: an address is computed by reads only, and an RMW access adds a read and two writes of it. -/
theorem operandsReadAndFrame : Obligations.OperandsReadAndFrame := by
  unfold Obligations.OperandsReadAndFrame
  intro s m r v e
  have hread := resolve_keeps .read e s
  have hrmw := resolve_keeps .rmw e s
  exact ⟨rfl, ⟨hread, rfl, readOperand_mem_value, hread.storage⟩, readOperand_keeps _ s,
    ⟨hrmw, rfl, Bus.read_value, hrmw.storage, rmwBus_storesOnly e r s, rmwBus_openBus e r s,
      fun k hk hw => rmwBus_storage_sameCell r hk hw⟩⟩

/-! ### Cycles and the poll -/

/-- Settles O42: every row runs its shape, whose cycles are `Instr.run_cycles`. -/
theorem cycleCountsOfInstructions : Obligations.CycleCountsOfInstructions := by
  unfold Obligations.CycleCountsOfInstructions
  exact fun i s => ⟨i.shape.run s, exec_eq_run i s, Instr.run_cycles i s⟩

/-- Settles O52: the poll takes the IRQ only with I clear, and CLI leaves I clear, SEI set. -/
theorem irqTakenAtBoundary : Obligations.IrqTakenAtBoundary := by
  unfold Obligations.IrqTakenAtBoundary
  refine ⟨Bus.irqLine_iff, fun s => ?poll, fun s t h hr hn hl => ?cli, fun s t h hpoll => ?sei⟩
  case poll => rw [State.poll_eq_irq_iff, Bus.irqLine_iff]
  case cli =>
    have hi : t.flags.i = false := by cases h; rfl
    exact State.poll_irq hr hn hl hi
  case sei =>
    have hi : t.flags.i = true := by cases h; rfl
    obtain ⟨-, -, hclear, -⟩ := t.poll_eq_irq_iff.mp hpoll
    rw [hi] at hclear
    cases hclear

end Sys2Proof.Proofs.AddressingModes
end

section
/-! SUPPORT. The store, as seen from every address of its cell: the lemma behind the statements of 41_load_store_transfer.md. -/

namespace Sys2Proof.Machine

/-- Every address that names a cell in which a byte is kept reads the stored byte (40_addressing_modes.md R182). -/
theorem storeOperand_storage_sameCell {e : EaMode} {s : State} {k : Addr} (v : Byte)
    (hk : s.bus.sameCell k (resolve .write e s).1 = true) (hw : s.bus.writable (resolve .write e s).1 = true) :
    (storeOperand e v s).storage k = some v := by
  have hreads := resolve_keeps .write e s
  exact Bus.write_storage_same v (hreads.writable hw) ((hreads.sameCell hw k).trans hk)

end Sys2Proof.Machine
end

section
/-! PROOFS. The statements of the family 41_load_store_transfer.md. -/

namespace Sys2Proof.Proofs.LoadStoreTransfer

open Sys2Proof Sys2Proof.Machine

/-- Settles O22: the operand's cycles only read, and each load's run puts the byte they give into its registers. -/
theorem loadsTakeOperand : Obligations.LoadsTakeOperand := by
  unfold Obligations.LoadsTakeOperand
  intro i o s m f
  refine ⟨readOperand_keeps o s, fun h => ?lda, fun h => ?ldx, fun h => ?ldy, fun h => ?lax⟩
  case lda => exact exec_of_shape h s
  case ldx => exact exec_of_shape h s
  case ldy => exact exec_of_shape h s
  case lax => exact exec_of_shape h s

/-- Settles O23: each store is `storeOperand` of its value, whose one write reaches every address of its cell. -/
theorem storesWriteRegister : Obligations.StoresWriteRegister := by
  unfold Obligations.StoresWriteRegister
  intro i op e s h a v b
  refine ⟨?exec, storeOperand_storesOnly e v s, fun k hk hw => storeOperand_storage_sameCell v hk hw⟩
  case exec =>
    rw [exec_of_shape h]
    cases op with
    | sta => rfl
    | stx => rfl
    | sty => rfl
    | sax => rfl

/-- Settles O24: each transfer's run is the read of PC, then the copy; TXS alone leaves the flags. -/
theorem transfersCopyRegister : Obligations.TransfersCopyRegister := by
  unfold Obligations.TransfersCopyRegister
  intro s b f
  refine ⟨?tax, ?tay, ?txa, ?tya, ?tsx, ?txs, Bus.dummyRead_keeps _ _, Bus.dummyRead_cycles _ _, ?encodings, ?cycles⟩
  case tax => exact exec_eq_run .tax s
  case tay => exact exec_eq_run .tay s
  case txa => exact exec_eq_run .txa s
  case tya => exact exec_eq_run .tya s
  case tsx => exact exec_eq_run .tsx s
  case txs => exact exec_eq_run .txs s
  case encodings => decide
  case cycles => decide

end Sys2Proof.Proofs.LoadStoreTransfer
end

section
/-! SUPPORT. The push after the discarded fetch, and the two bits of P no flag holds: the lemmas behind the statement of
42_stack.md. -/

namespace Sys2Proof.Machine

/-- `Pbyte` sets bit 5 always and bit 4 as its caller says (10_state.md R39). -/
theorem Flags.pack_unusedBits (f : Flags) (b : Bool) : (f.pack b).getLsbD 5 = true ∧ (f.pack b).getLsbD 4 = b := by
  simp only [Flags.pack, BitVec.getLsbD_append]
  simp

/-- `DummyRead(PC)`, then a push, whole: what PHA and PHP share (42_stack.md R250, R251). -/
theorem State.dummyFetch_push_eq (s : State) (v : Byte) :
    s.dummyFetch.push v = { s with bus := (s.bus.dummyRead s.pc).write (stackAddr s.sp) v, sp := s.sp - 1 } := rfl

/-- What a discarded read and a push do to the bus: the byte is in its slot, no other cell changed, and two cycles passed. -/
theorem Bus.dummyRead_push_spec (b : Bus) (pc : Addr) (sp v : Byte) :
    ((b.dummyRead pc).write (stackAddr sp) v).storage (stackAddr sp) = some v ∧
    b.StoresOnly [stackAddr sp] ((b.dummyRead pc).write (stackAddr sp) v) ∧
    ((b.dummyRead pc).write (stackAddr sp) v).cycles = b.cycles + 2 := by
  refine ⟨?stored, ?frame, ?cycles⟩
  case stored => exact Bus.write_storage_same v (Bus.writable_stackAddr _ sp) (by simp)
  case frame => exact ((b.dummyRead_keeps pc).storesOnly _).trans (Bus.write_storesOnly _ _ v)
  case cycles => simp

end Sys2Proof.Machine
end

section
/-! PROOFS. The statement O19 of the family 42_stack.md. -/

namespace Sys2Proof.Proofs.Stack

open Sys2Proof Sys2Proof.Machine

/-- Settles O19: each instruction is a discarded fetch and a push of its byte, whose slot, frame and cycles
`Bus.dummyRead_push_spec` gives. -/
theorem pushesStoreAtStackPointer : Obligations.PushesStoreAtStackPointer := by
  unfold Obligations.PushesStoreAtStackPointer
  intro s
  rw [ofNat_stackAddr]
  obtain ⟨hstoredA, hframeA, hcyclesA⟩ := s.bus.dummyRead_push_spec s.pc s.sp s.a
  obtain ⟨hstoredP, hframeP, hcyclesP⟩ := s.bus.dummyRead_push_spec s.pc s.sp (s.flags.pack true)
  obtain ⟨hbit5, hbit4⟩ := s.flags.pack_unusedBits true
  refine ⟨rfl, rfl, rfl, rfl, ⟨_, ?pha, rfl, hstoredA, hframeA, hcyclesA⟩,
    ⟨_, ?php, rfl, hstoredP, hbit5, hbit4, hframeP, hcyclesP⟩⟩
  case pha => exact (exec_eq_run .pha s).trans (congrArg _ (s.dummyFetch_push_eq s.a))
  case php => exact (exec_eq_run .php s).trans (congrArg _ (s.dummyFetch_push_eq (s.flags.pack true)))

end Sys2Proof.Proofs.Stack
end

section
/-! SUPPORT. The sums of ADC and SBC in unsigned and in two's-complement arithmetic, the compare in numbers, and what does not read
D: the lemmas behind the statements of 43_alu.md. -/

namespace Sys2Proof.Machine

/-! ### ADC and SBC (43_alu.md R262, R263) -/

/-- ADC, whole (R262): the sum of the operands and C. -/
theorem adc_eq (a m : Byte) (f : Flags) :
    adc a m f = ⟨BitVec.ofNat 8 (a.toNat + m.toNat + f.c.toNat),
      { f.setNZ (BitVec.ofNat 8 (a.toNat + m.toNat + f.c.toNat)) with
        c := decide (a.toNat + m.toNat + f.c.toNat > 255)
        v := (((a ^^^ BitVec.ofNat 8 (a.toNat + m.toNat + f.c.toNat)) &&&
          (m ^^^ BitVec.ofNat 8 (a.toNat + m.toNat + f.c.toNat))) &&& 0x80) != 0 }⟩ := by
  simp only [adc, bitNat_eq]

/-- SBC, whole (R263): the sum with the operand's complement, and V from the operand itself. -/
theorem sbc_eq (a m : Byte) (f : Flags) :
    sbc a m f = ⟨BitVec.ofNat 8 (a.toNat + (0xFF ^^^ m).toNat + f.c.toNat),
      { f.setNZ (BitVec.ofNat 8 (a.toNat + (0xFF ^^^ m).toNat + f.c.toNat)) with
        c := decide (a.toNat + (0xFF ^^^ m).toNat + f.c.toNat > 255)
        v := (((a ^^^ m) &&& (a ^^^ BitVec.ofNat 8 (a.toNat + (0xFF ^^^ m).toNat + f.c.toNat))) &&& 0x80) != 0 }⟩ := by
  simp only [sbc, bitNat_eq]

/-- The two formulas for V agree: where the result's sign is not that of `a`, the complement of `m` has the sign of `a` if and only if
`m` has not. -/
theorem overflow_complement (a m r : Byte) :
    ((((a ^^^ m) &&& (a ^^^ r)) &&& 0x80) != 0) = ((((a ^^^ r) &&& ((0xFF ^^^ m) ^^^ r)) &&& 0x80) != 0) := by
  have hff : (0xFF : Byte).getLsbD 7 = true := rfl
  simp only [and_80_getLsbD, BitVec.getLsbD_and, BitVec.getLsbD_xor, hff]
  generalize a.getLsbD 7 = a7, m.getLsbD 7 = m7, r.getLsbD 7 = r7
  decide +revert

/-- SBC adds the complement of its operand (R263), V included. -/
theorem sbc_eq_adc_complement (a m : Byte) (f : Flags) : sbc a m f = adc a (0xFF ^^^ m) f := by
  rw [sbc_eq, adc_eq, overflow_complement]

/-- The result of ADC and its carry, as a ninth bit, are the exact sum. -/
theorem adc_value_add_carry (a m : Byte) (f : Flags) :
    (adc a m f).value.toNat + 256 * (adc a m f).flags.c.toNat = a.toNat + m.toNat + f.c.toNat := by
  have ha := a.isLt
  have hm := m.isLt
  have hk := f.c.toNat_le
  rw [adc_eq, BitVec.toNat_ofNat]
  by_cases hcarry : a.toNat + m.toNat + f.c.toNat > 255
  · rw [decide_eq_true hcarry, Bool.toNat_true]; omega
  · rw [decide_eq_false hcarry, Bool.toNat_false]; omega

/-- V of ADC compares signs: both summands differ from the result in bit 7. -/
theorem adc_overflow_signs (a m : Byte) (f : Flags) :
    (adc a m f).flags.v = ((a.getLsbD 7 ^^ (adc a m f).value.getLsbD 7) && (m.getLsbD 7 ^^ (adc a m f).value.getLsbD 7)) := by
  simp only [adc_eq, and_80_getLsbD, BitVec.getLsbD_and, BitVec.getLsbD_xor]

/-- V of ADC is two's-complement overflow (R261). -/
theorem adc_overflow (a m : Byte) (f : Flags) : (adc a m f).flags.v =
    decide (a.toInt + m.toInt + f.c.toNat < -128 ∨ a.toInt + m.toInt + f.c.toNat > 127) := by
  have hr := (adc a m f).value.isLt
  have hk := f.c.toNat_le
  have hsum := adc_value_add_carry a m f
  have hcarry := (adc a m f).flags.c.toNat_le
  rw [adc_overflow_signs, byte_toInt, byte_toInt, getLsbD_7, getLsbD_7, getLsbD_7, Bool.eq_iff_iff]
  simp only [Bool.and_eq_true, bne_iff_ne, ne_eq, decide_eq_decide, decide_eq_true_eq]
  omega

/-- The complement of a byte in two's complement. -/
theorem xor_ff_toInt (m : Byte) : (0xFF ^^^ m).toInt = -m.toInt - 1 := by
  have hm := m.isLt
  rw [byte_toInt, byte_toInt, xor_ff_toNat]
  omega

/-- The result of SBC and its carry, as a ninth bit, are the exact sum with the complement. -/
theorem sbc_value_add_carry (a m : Byte) (f : Flags) :
    (sbc a m f).value.toNat + 256 * (sbc a m f).flags.c.toNat = a.toNat + (255 - m.toNat) + f.c.toNat := by
  rw [sbc_eq_adc_complement, adc_value_add_carry, xor_ff_toNat]

/-- C of SBC, in numbers. -/
theorem sbc_carry (a m : Byte) (f : Flags) :
    (sbc a m f).flags.c = decide (a.toNat + (255 - m.toNat) + f.c.toNat > 255) := by
  rw [sbc_eq, xor_ff_toNat]

/-- V of SBC is two's-complement overflow of the difference (R261). -/
theorem sbc_overflow (a m : Byte) (f : Flags) : (sbc a m f).flags.v =
    decide (a.toInt - m.toInt - (1 - (f.c.toNat : Int)) < -128 ∨ a.toInt - m.toInt - (1 - (f.c.toNat : Int)) > 127) := by
  rw [sbc_eq_adc_complement, adc_overflow, xor_ff_toInt, decide_eq_decide]
  omega

/-! ### Compare (R268 to R270) -/

/-- N of a compare, in numbers. -/
theorem sub_getLsbD_7 (r m : Byte) : (r - m).getLsbD 7 = decide ((r.toNat + 256 - m.toNat) % 256 ≥ 128) := by
  have hm := m.isLt
  have hsub : (r - m).toNat = (r.toNat + 256 - m.toNat) % 256 := by
    rw [BitVec.toNat_sub]; omega
  rw [getLsbD_7, hsub]

theorem compareFlags_eq (r m : Byte) (f : Flags) :
    compareFlags r m f = { f with
      c := decide (r.toNat ≥ m.toNat), z := decide (r = m), n := decide ((r.toNat + 256 - m.toNat) % 256 ≥ 128) } := by
  rw [compareFlags, sub_getLsbD_7]
  rfl

/-! ### What does not read the flags, and what does not read D (R260) -/

theorem resolve_setFlags (cls : AccessClass) (e : EaMode) (s : State) (f : Flags) :
    resolve cls e { s with flags := f } = resolve cls e s := by
  cases e <;> rfl

theorem readOperand_setFlags (o : Operand) (s : State) (f : Flags) : readOperand o { s with flags := f } = readOperand o s := by
  cases o with
  | imm m => rfl
  | mem e => simp only [readOperand, resolve_setFlags]

theorem rmwByte_setFlags (e : EaMode) (s : State) (f : Flags) : rmwByte e { s with flags := f } = rmwByte e s := by
  simp only [rmwByte, resolve_setFlags]

theorem rmwBus_setFlags (e : EaMode) (r : Byte) (s : State) (f : Flags) : rmwBus e r { s with flags := f } = rmwBus e r s := by
  simp only [rmwBus, rmwByte_setFlags, resolve_setFlags]

/-- The machine with D replaced. -/
def State.setDecimal (s : State) (d : Bool) : State := { s with flags := { s.flags with d := d } }

theorem opAdc_setDecimal (o : Operand) (s : State) (d : Bool) : opAdc o (s.setDecimal d) = (opAdc o s).setDecimal d := by
  simp only [opAdc, State.setDecimal, readOperand_setFlags]
  rfl

theorem opSbc_setDecimal (o : Operand) (s : State) (d : Bool) : opSbc o (s.setDecimal d) = (opSbc o s).setDecimal d := by
  simp only [opSbc, State.setDecimal, readOperand_setFlags]
  rfl

theorem opRra_setDecimal (e : EaMode) (s : State) (d : Bool) : opRra e (s.setDecimal d) = (opRra e s).setDecimal d := by
  simp only [opRra, State.setDecimal, modifyOperand_eq, rmwByte_setFlags, rmwBus_setFlags]
  rfl

theorem opIsb_setDecimal (e : EaMode) (s : State) (d : Bool) : opIsb e (s.setDecimal d) = (opIsb e s).setDecimal d := by
  simp only [opIsb, State.setDecimal, modifyOperand_eq, rmwByte_setFlags, rmwBus_setFlags]
  rfl

/-- An instruction whose run commutes with replacing D answers, with D replaced, its next state with D replaced. -/
theorem exec_setDecimal_of_run {i : Instr} {sh : Shape} {s t : State} {d : Bool} (h : i.shape = sh)
    (hrun : sh.run (s.setDecimal d) = (sh.run s).setDecimal d) (ht : exec i s = .next t) :
    exec i (s.setDecimal d) = .next (t.setDecimal d) := by
  rw [exec_of_shape h] at ht
  cases ht
  rw [exec_of_shape h, hrun]

end Sys2Proof.Machine
end

section
/-! PROOFS. The statements of the family 43_alu.md. -/

namespace Sys2Proof.Proofs.Alu

open Sys2Proof Sys2Proof.Machine

/-! ### Arithmetic -/

/-- Settles O25: the operand's cycles only read, and A and the flags take what `adc` gives of the operand. -/
theorem addWithCarry : Obligations.AddWithCarry := by
  unfold Obligations.AddWithCarry
  intro i o s h m sum r
  refine ⟨readOperand_keeps o s, ?exec⟩
  case exec => simp only [exec_of_shape h, Shape.run, ReadOp.run, opAdc, adc_eq, Flags.setNZ, m, sum, r]

/-- Settles O26: the operand's cycles only read, and A and the flags take what `sbc` gives of the operand; 0xEB has the shape of
0xE9. -/
theorem subtractWithBorrow : Obligations.SubtractWithBorrow := by
  unfold Obligations.SubtractWithBorrow
  intro i o s h m sum r
  refine ⟨readOperand_keeps o s, ?exec⟩
  case exec => simp only [exec_of_shape h, Shape.run, ReadOp.run, opSbc, sbc_eq, Flags.setNZ, m, sum, r]

/-- Settles O27: the carry is the ninth bit of the exact sum, and V is set where the signed sum leaves its range; SBC is the ADC of
the complement. -/
theorem carryAndOverflowMeanUnsignedAndSigned : Obligations.CarryAndOverflowMeanUnsignedAndSigned := by
  unfold Obligations.CarryAndOverflowMeanUnsignedAndSigned
  intro a m f k sum diff
  have hm := m.isLt
  have hadd := adc_value_add_carry a m f
  have hsub := sbc_value_add_carry a m f
  have hborrow := sbc_carry a m f
  have hvalue := (sbc a m f).value.isLt
  refine ⟨?sum, ?addOverflow, ?noBorrow, ?difference, ?subOverflow⟩
  case sum => omega
  case addOverflow => exact adc_overflow a m f
  case noBorrow => rw [hborrow, decide_eq_decide]; omega
  case difference => omega
  case subOverflow => exact sbc_overflow a m f

/-- Settles O28: no operand is read by way of a flag, and neither sum reads D. -/
theorem decimalFlagHasNoEffect : Obligations.DecimalFlagHasNoEffect := by
  unfold Obligations.DecimalFlagHasNoEffect
  intro i s t d hshape ht
  obtain ⟨o, hadc | hsbc⟩ | ⟨e, hrra | hisb⟩ := hshape
  · exact exec_setDecimal_of_run hadc (opAdc_setDecimal o s d) ht
  · exact exec_setDecimal_of_run hsbc (opSbc_setDecimal o s d) ht
  · exact exec_setDecimal_of_run hrra (opRra_setDecimal e s d) ht
  · exact exec_setDecimal_of_run hisb (opIsb_setDecimal e s d) ht

/-! ### Logic and compares -/

/-- Settles O29: the operand's cycles only read, and each row's run combines A with the byte they give. -/
theorem logicCombinesOperand : Obligations.LogicCombinesOperand := by
  unfold Obligations.LogicCombinesOperand
  intro i o s m f
  refine ⟨readOperand_keeps o s, fun h => ?and, fun h => ?ora, fun h => ?eor⟩
  case and => exact exec_of_shape h s
  case ora => exact exec_of_shape h s
  case eor => exact exec_of_shape h s

/-- Settles O30: the operand's cycles only read, and the flags are `bitTest`'s. -/
theorem bitTestsOperand : Obligations.BitTestsOperand := by
  unfold Obligations.BitTestsOperand
  intro i o s h m
  exact ⟨readOperand_keeps o s, exec_of_shape h s⟩

/-- Settles O31: each row's run changes the flags by `compareFlags` of its register, which `compareFlags_eq` gives in numbers. -/
theorem comparesSetCarryZeroNegative : Obligations.ComparesSetCarryZeroNegative := by
  unfold Obligations.ComparesSetCarryZeroNegative
  intro i o s m f
  have hflags : ∀ r, compareFlags r m s.flags = f r := fun r => compareFlags_eq r m s.flags
  refine ⟨readOperand_keeps o s, fun h => ?cmp, fun h => ?cpx, fun h => ?cpy⟩
  case cmp => rw [exec_of_shape h, ← hflags]; rfl
  case cpx => rw [exec_of_shape h, ← hflags]; rfl
  case cpy => rw [exec_of_shape h, ← hflags]; rfl

/-! ### INX, INY, DEX and DEY -/

/-- Settles O33: each row's run is the read of PC, then the register one up or down, with its flags. -/
theorem registerIncrementDecrement : Obligations.RegisterIncrementDecrement := by
  unfold Obligations.RegisterIncrementDecrement
  intro s b f
  refine ⟨?inx, ?iny, ?dex, ?dey, Bus.dummyRead_keeps _ _, Bus.dummyRead_cycles _ _, ?encodings, ?cycles⟩
  case inx => exact exec_eq_run .inx s
  case iny => exact exec_eq_run .iny s
  case dex => exact exec_eq_run .dex s
  case dey => exact exec_eq_run .dey s
  case encodings => decide
  case cycles => decide

end Sys2Proof.Proofs.Alu
end

section
/-! SUPPORT. RTS on a stack that holds a return address: the lemma behind the statement of 45_control_transfer.md. -/

namespace Sys2Proof.Machine

/-- RTS where the return address `r` stands in the two slots a JSR at S = `sp` wrote: it continues at `r + 1`, with `sp` in S
(45_control_transfer.md R333). -/
theorem exec_rts_of_returnAddress {u : State} {sp : Byte} {r : Addr} (hsp : u.sp = sp - 2)
    (hhi : u.bus.storage (stackAddr sp) = some (hi r)) (hlo : u.bus.storage (stackAddr (sp - 1)) = some (lo r)) :
    ∃ b : Bus, exec .rts u = .next { u with bus := b, sp := sp, pc := r + 1 } := by
  obtain ⟨b, -, -, hrts⟩ := opRts_spec u
  have hsp2 : u.sp + 2 = sp := by rw [hsp, BitVec.sub_add_cancel]
  have hsp1 : u.sp + 1 = sp - 1 := by rw [hsp, ← byte_sub_one_one, BitVec.sub_add_cancel]
  rw [Bus.storage_stackAddr, Option.some.injEq] at hhi hlo
  rw [hsp2, hsp1, hhi, hlo, concat_hi_lo] at hrts
  exact ⟨b, congrArg Host.Outcome.next hrts⟩

end Sys2Proof.Machine
end

section
/-! PROOFS. The statement O16 of the family 45_control_transfer.md. -/

namespace Sys2Proof.Proofs.ControlTransfer

open Sys2Proof Sys2Proof.Machine

/-- Settles O16: the return address that JSR pushed (O14), the address of its last byte, is the one RTS pulls and adds 1 to. -/
theorem rtsUndoesJsr : Obligations.RtsUndoesJsr := by
  unfold Obligations.RtsUndoesJsr
  intro a j s t u hpc ht hsp hslotHi hslotLo
  obtain ⟨-, b, p, hjsr, -, -, hhi, hlo, -⟩ := MachineState.jsrPushesReturnAddress a s
  obtain rfl := Host.Outcome.next.inj (hjsr.symm.trans ht)
  obtain ⟨c, hrts⟩ := exec_rts_of_returnAddress hsp (hslotHi.trans hhi) (hslotLo.trans hlo)
  refine ⟨_, hrts, ?pc, rfl, rfl⟩
  case pc => exact (congrArg (· + 1) hpc).trans (BitVec.add_assoc j 2 1)

end Sys2Proof.Proofs.ControlTransfer
end

section
/-! PROOFS. The statement of the family 46_flags_system.md. -/

namespace Sys2Proof.Proofs.FlagsSystem

open Sys2Proof Sys2Proof.Machine

/-- Settles O36: each row's run is the read of PC, then its one flag. -/
theorem flagInstructionsWriteOneFlag : Obligations.FlagInstructionsWriteOneFlag := by
  unfold Obligations.FlagInstructionsWriteOneFlag
  intro s b
  refine ⟨?clc, ?sec, ?cli, ?sei, ?cld, ?sed, ?clv, Bus.dummyRead_keeps _ _, Bus.dummyRead_cycles _ _, ?encodings⟩
  case clc => exact exec_eq_run .clc s
  case sec => exact exec_eq_run .sec s
  case cli => exact exec_eq_run .cli s
  case sei => exact exec_eq_run .sei s
  case cld => exact exec_eq_run .cld s
  case sed => exact exec_eq_run .sed s
  case clv => exact exec_eq_run .clv s
  case encodings => decide

end Sys2Proof.Proofs.FlagsSystem
end

section
/-! SUPPORT. The raster over a whole frame: the position, vertical blank and the parity after every dot (60_exceptions.md R426,
R451). -/

namespace Sys2Proof.Machine

/-! ### One dot -/

/-- The position and the parity after a dot are where the raster moved to. -/
theorem Ppu.advance_position (p : Ppu) :
    p.advance.scanline = p.move.scanline ∧ p.advance.dot = p.move.dot ∧ p.advance.oddFrame = p.move.oddFrame := by
  obtain ⟨-, -, -, -, -, -, -, -, hscan, hdot, hodd⟩ := p.move.mark.settle_keeps
  obtain ⟨hmarkScan, hmarkDot⟩ := p.move.mark_position
  have hmarkOdd : p.move.mark.oddFrame = p.move.oddFrame := by
    unfold Ppu.mark
    split_ifs <;> rfl
  exact ⟨hscan.trans hmarkScan, hdot.trans hmarkDot, hodd.trans hmarkOdd⟩

/-- Vertical blank changes only where the raster reaches dot 1 of scanline 241 or of scanline 261 (R426). -/
theorem Ppu.advance_vblank (p : Ppu) :
    p.advance.vblank = if p.move.scanline = 241 ∧ p.move.dot = 1 then true
      else if p.move.scanline = 261 ∧ p.move.dot = 1 then false else p.vblank := by
  obtain ⟨-, -, -, -, -, hvblank, -⟩ := p.move.mark.settle_keeps
  have hmove : p.move.vblank = p.vblank := by
    unfold Ppu.move
    split_ifs <;> rfl
  rw [Ppu.advance, hvblank, Ppu.mark, ← hmove]
  split_ifs <;> rfl

/-- With no write deferred, a dot leaves PPUMASK alone and defers none (R452). -/
theorem Ppu.advance_mask_of_not_holds {p : Ppu} (h : p.holds = false) : p.advance.mask = p.mask ∧ p.advance.holds = false := by
  obtain ⟨hctrl, hmask, -, hscrollX, hscrollY, -, -, haddr, -⟩ := p.mark_move_keeps
  have hholds : p.move.mark.holds = false := by rw [Ppu.holds, hctrl, hmask, hscrollX, hscrollY, haddr]; exact h
  have hadvance : p.advance = p.move.mark := by simp [Ppu.advance, Ppu.settle, hholds]
  exact hadvance ▸ ⟨hmask, hholds⟩

theorem Ppu.iterate_advance_mask_of_not_holds {p : Ppu} (h : p.holds = false) (n : Nat) :
    (Ppu.advance^[n] p).mask = p.mask ∧ (Ppu.advance^[n] p).holds = false := by
  induction n with
  | zero => exact ⟨rfl, h⟩
  | succ n ih =>
    obtain ⟨hmask, hholds⟩ := ih
    rw [Function.iterate_succ_apply']
    obtain ⟨hmask', hholds'⟩ := Ppu.advance_mask_of_not_holds hholds
    exact ⟨hmask'.trans hmask, hholds'⟩

/-! ### The dots of a frame -/

/-- The raster is `n` dots into a frame of parity `odd`, with vertical blank as it is there (R426, R451). -/
structure Ppu.InFrame (odd : Bool) (n : Nat) (p : Ppu) : Prop where
  scanline : p.scanline = n / 341
  dot : p.dot = n % 341
  vblank : p.vblank = decide (241 * 341 + 1 ≤ n ∧ n < 261 * 341 + 1)
  oddFrame : p.oddFrame = odd

/-- Is dot 340 of scanline 261 skipped: is this an odd frame, with rendering enabled (R451)? -/
def Ppu.skipsDot (p : Ppu) : Bool := p.oddFrame && p.rendering

section
variable {odd : Bool} {n : Nat} {p : Ppu} (h : p.InFrame odd n)
include h

/-- A scanline ends after its 341 dots, or the frame after 89,341 where the last dot is skipped. -/
theorem Ppu.InFrame.lastDot_iff : p.lastDot = true ↔ n % 341 = 340 ∨ (n = 89340 ∧ p.skipsDot = true) := by
  have hsplit : n / 341 = 261 ∧ n % 341 = 339 ↔ n = 89340 := by omega
  have hlt : n % 341 < 341 := Nat.mod_lt _ (by decide)
  have hge : n % 341 ≥ 340 ↔ n % 341 = 340 := by omega
  simp only [Ppu.lastDot, Ppu.skipsDot, h.scanline, h.dot, Bool.or_eq_true, Bool.and_eq_true, decide_eq_true_eq, hge, hsplit,
    and_assoc]

/-- Before the end of the frame the raster moves to the next dot. -/
theorem Ppu.InFrame.move (hn : n < 89341) (hskip : n = 89340 → p.skipsDot = false) :
    p.move.scanline = (n + 1) / 341 ∧ p.move.dot = (n + 1) % 341 ∧ p.move.oddFrame = odd := by
  have hlast : p.lastDot = true ↔ n % 341 = 340 :=
    h.lastDot_iff.trans (or_iff_left fun ⟨hn, hs⟩ => Bool.false_ne_true ((hskip hn).symm.trans hs))
  obtain ⟨hscan, hdot, -, hodd⟩ := h
  unfold Ppu.move
  split_ifs with hl hbottom
  · have hcol := hlast.mp hl
    omega
  · have hcol := hlast.mp hl
    exact ⟨by simp only; omega, by simp only; omega, hodd⟩
  · have hcol := mt hlast.mpr hl
    exact ⟨by simp only; omega, by simp only; omega, hodd⟩

theorem Ppu.InFrame.advance (hn : n < 89341) (hskip : n = 89340 → p.skipsDot = false) : p.advance.InFrame odd (n + 1) := by
  obtain ⟨hscan, hdot, hodd⟩ := p.advance_position
  obtain ⟨hmoveScan, hmoveDot, hmoveOdd⟩ := h.move hn hskip
  refine ⟨hscan.trans hmoveScan, hdot.trans hmoveDot, ?vblank, hodd.trans hmoveOdd⟩
  case vblank =>
    have hbegins : (n + 1) / 341 = 241 ∧ (n + 1) % 341 = 1 ↔ n = 241 * 341 := by omega
    have hends : (n + 1) / 341 = 261 ∧ (n + 1) % 341 = 1 ↔ n = 261 * 341 := by omega
    rw [p.advance_vblank, hmoveScan, hmoveDot, h.vblank]
    simp only [hbegins, hends]
    split_ifs with hb he
    · exact (decide_eq_true (by omega)).symm
    · exact (decide_eq_false (by omega)).symm
    · exact decide_eq_decide.mpr (by omega)

/-- The frame ends after dot 340 of scanline 261, or after dot 339 where dot 340 is skipped (R451). -/
theorem Ppu.InFrame.advance_frameEnd (hend : n = 89341 ∨ (n = 89340 ∧ p.skipsDot = true)) :
    p.advance.scanline = 0 ∧ p.advance.dot = 0 ∧ p.advance.vblank = false ∧ p.advance.oddFrame = !odd := by
  have hlast : p.lastDot = true := h.lastDot_iff.mpr (hend.imp_left (by omega))
  have hbottom : p.scanline ≥ 261 := by have := h.scanline; omega
  have hmove : p.move = { p with scanline := 0, dot := 0, oddFrame := !p.oddFrame } := by
    rw [Ppu.move, if_pos hlast, if_pos hbottom]
  have hblank : p.vblank = false := h.vblank.trans (decide_eq_false (by omega))
  obtain ⟨hscan, hdot, hodd⟩ := p.advance_position
  rw [hscan, hdot, hodd, p.advance_vblank, hmove, ← h.oddFrame]
  exact ⟨rfl, rfl, hblank, rfl⟩

end

/-- Up to dot 339 of scanline 261 no dot is skipped. -/
theorem Ppu.iterate_advance_inFrame {p : Ppu} (hs : p.scanline = 0) (hd : p.dot = 0) (hv : p.vblank = false) {n : Nat}
    (hn : n ≤ 89340) : (Ppu.advance^[n] p).InFrame p.oddFrame n := by
  induction n with
  | zero => exact ⟨hs, hd, hv, rfl⟩
  | succ n ih =>
    rw [Function.iterate_succ_apply']
    exact (ih (by omega)).advance (by omega) (by omega)

end Sys2Proof.Machine
end

section
/-! PROOFS. The statement of the family 60_exceptions.md. -/

namespace Sys2Proof.Proofs.Exceptions

open Sys2Proof Sys2Proof.Machine

/-- Settles O57: no dot is skipped before dot 339 of scanline 261, where the frame's length is decided. -/
theorem ppuFrameTiming : Obligations.PpuFrameTiming := by
  unfold Obligations.PpuFrameTiming
  intro p hs hd hv q len
  have hupTo : ∀ n, n ≤ 89340 → (Ppu.advance^[n] p).InFrame p.oddFrame n := fun n => Ppu.iterate_advance_inFrame hs hd hv
  have hq : q.InFrame p.oddFrame 89340 := hupTo 89340 le_rfl
  have hskip : q.skipsDot = true ↔
      p.oddFrame = true ∧ (q.mask.inForce.getLsbD 3 = true ∨ q.mask.inForce.getLsbD 4 = true) := by
    rw [Ppu.skipsDot, Ppu.rendering, hq.oddFrame, Bool.and_eq_true, Bool.or_eq_true]
  have hmask : p.holds = false → q.mask = p.mask := fun h => (Ppu.iterate_advance_mask_of_not_holds h 89340).1
  have hlast : ∃ m, len = m + 1 ∧ (∀ n, n ≤ m → (Ppu.advance^[n] p).InFrame p.oddFrame n) ∧
      (m = 89341 ∨ (m = 89340 ∧ (Ppu.advance^[m] p).skipsDot = true)) := by
    by_cases h : q.skipsDot = true
    · exact ⟨89340, if_pos (hskip.mp h), hupTo, .inr ⟨rfl, h⟩⟩
    · have hfull : (Ppu.advance^[89340 + 1] p).InFrame p.oddFrame (89340 + 1) := by
        rw [Function.iterate_succ_apply']
        exact hq.advance (by decide) (fun _ => Bool.eq_false_iff.mpr h)
      refine ⟨89341, if_neg (mt hskip.mpr h), fun n hn => ?_, .inl rfl⟩
      rcases Nat.le_succ_iff.mp hn with hn | rfl
      · exact hupTo n hn
      · exact hfull
  obtain ⟨m, hm, hdots, hend⟩ := hlast
  obtain ⟨hscan, hdot, hblank, hodd⟩ := (hdots m le_rfl).advance_frameEnd hend
  rw [hm, Function.iterate_succ_apply']
  refine ⟨fun n hn => ?dots, hscan, hdot, hblank, hodd, hmask⟩
  case dots =>
    obtain ⟨hscan, hdot, hblank, hodd⟩ := hdots n (Nat.le_of_lt_succ hn)
    exact ⟨hscan, hdot, hblank, hodd⟩

end Sys2Proof.Proofs.Exceptions
end
